-- ==== Sys2Proof/Word.lean ====
section
/-! DEFINITION. The widths of CE-CFS (00_scope.md section 5): bytes, 32-bit words and 64-bit operation words. -/

namespace Sys2Proof

/-- An 8-bit value: a message byte, a payload byte, a byte of a frame, an op code, a response code. -/
abbrev Byte := BitVec 8

/-- A 32-bit value: the checksum, the wire opcode, an immediate, response data. -/
abbrev Word32 := BitVec 32

/-- The 64-bit operation word `OPW` (R31, R50). It is one value and has no byte order. -/
abbrev OpWord := BitVec 64

/-- A frame on the TX port, byte index 0 first (R33). That it has 64 bytes is an invariant (Safety.lean). -/
abbrev Frame := List Byte

end Sys2Proof
end

