-- ==== Sys2Proof/Config.lean ====
section
/-! DEFINITION. The implementation parameters of CE-CFS (R2, 00_scope.md section 4) and the shape of the
configuration table `CMDTAB` (R60, R61). The block has no open value (93_implementation_defined.md), so there is
no free value here. -/

namespace Sys2Proof.Config

/-- FRAME_LEN (R2). -/
def frameLen : Nat := 64

/-- OPCODE_LEN (R2). -/
def opcodeLen : Nat := 4

/-- PAYLOAD_MAX (R2). -/
def payloadMax : Nat := 60

/-- CRC_POLY (R2, R84). -/
def crcPoly : Word32 := 0xEDB88320#32

/-- CRC_INIT_RAW (R2): the raw-domain image of the default seed. -/
def crcInitRaw : Word32 := 0xFFFFFFFF#32

/-- CRC_XOROUT (R2): the final complement. -/
def crcXorOut : Word32 := 0xFFFFFFFF#32

/-- DEFAULT_SEED (R81; 90_conflicts.md C2). -/
def defaultSeed : Word32 := 0x00000000#32

/-- PAGE_SIZE, the value this model is built for (90_conflicts.md C4, D13, U7; log entry 8). -/
def pageSize : Nat := 128

/-- The spec admits 128 only: a model refuses every other page size (C4, D13, U7; log entry 8). -/
def pageSizeAdmitted (n : Nat) : Bool := n == 128

/-- HALF_LEN = PAGE_SIZE / 2 (00_scope.md section 4). -/
def halfLen : Nat := pageSize / 2

/-- PAY_CAP = max(PAYLOAD_MAX, HALF_LEN), the capacity of the payload buffer (R12, D8). -/
def payCap : Nat := max payloadMax halfLen

/-- A named wire command whose payload is a fixed byte string (R60). -/
structure CmdRow where
  opcode  : Word32
  payload : List Byte
  deriving DecidableEq, Repr

/-- `CMDTAB`, versioned configuration (R60, R61, D14): one field per named wire command. ProgramPage has an
opcode only, since its payload is built from operands (R62). The block never reads it. -/
structure CmdTab where
  test             : CmdRow
  reset            : CmdRow
  getLog           : CmdRow
  startProgramming : CmdRow
  programPage      : Word32
  endProgramming   : CmdRow
  jumpToApp        : CmdRow
  deriving DecidableEq, Repr

end Sys2Proof.Config
end

