-- ==== Sys2Proof/Syntax.lean ====
section
/-! DEFINITION. The twelve operations of CE-CFS (R52), their operand formats (R50), and an assembler line after
its text has been read (R64). -/

namespace Sys2Proof

/-- The operand formats of an operation word (R50). -/
inductive Format where
  /-- Format N: no operand, `imm` is zero. -/
  | noOperand
  /-- Format B: the operand is `imm[7:0]`, `imm[31:8]` is zero. -/
  | byteOperand
  /-- Format W: the operand is `imm[31:0]`. -/
  | wordOperand
  deriving DecidableEq, Repr

/-- The twelve mnemonics of R52, without operands. -/
inductive Mnemonic where
  | nop | rst | stat
  | crcInit | crcSeed | crcByte | crcRead
  | frmClr | frmOpc | frmPush | frmCmd | frmHalf
  deriving DecidableEq, Repr

/-- An operation of the block: one constructor per row of spec/opcode_table.json. Operands are typed at the
width of their field, so every term is an operation the encoding can express. -/
inductive Instr where
  /-- NOP (R120). -/
  | nop
  /-- RST (R121). -/
  | rst
  /-- STAT (R122). -/
  | stat
  /-- CRC.INIT (R86). -/
  | crcInit
  /-- CRC.SEED v (R87). -/
  | crcSeed (v : Word32)
  /-- CRC.BYTE b (R88). -/
  | crcByte (b : Byte)
  /-- CRC.READ (R89). -/
  | crcRead
  /-- FRM.CLR (R100). -/
  | frmClr
  /-- FRM.OPC v (R101). -/
  | frmOpc (v : Word32)
  /-- FRM.PUSH b (R102). -/
  | frmPush (b : Byte)
  /-- FRM.CMD (R103). -/
  | frmCmd
  /-- FRM.HALF (R104). -/
  | frmHalf
  deriving DecidableEq, Repr

/-- An assembler line once its text is split (R64): a mnemonic and, where there is one, a number. The number
is not yet known to fit its field, so a line may be ill-formed (WellFormed.lean). -/
structure SourceLine where
  mnemonic : Mnemonic
  operand  : Option Nat
  deriving DecidableEq, Repr

namespace Mnemonic

/-- The mnemonics in the order of R52's table. -/
def all : List Mnemonic :=
  [.nop, .rst, .stat, .crcInit, .crcSeed, .crcByte, .crcRead, .frmClr, .frmOpc, .frmPush, .frmCmd, .frmHalf]

end Mnemonic

namespace Instr

/-- Which row of R52 an operation belongs to. -/
def mnemonic : Instr → Mnemonic
  | nop => .nop
  | rst => .rst
  | stat => .stat
  | crcInit => .crcInit
  | crcSeed _ => .crcSeed
  | crcByte _ => .crcByte
  | crcRead => .crcRead
  | frmClr => .frmClr
  | frmOpc _ => .frmOpc
  | frmPush _ => .frmPush
  | frmCmd => .frmCmd
  | frmHalf => .frmHalf

/-- The assembler line of an operation (R64). -/
def toSource : Instr → SourceLine
  | crcSeed v => ⟨.crcSeed, some v.toNat⟩
  | crcByte b => ⟨.crcByte, some b.toNat⟩
  | frmOpc v => ⟨.frmOpc, some v.toNat⟩
  | frmPush b => ⟨.frmPush, some b.toNat⟩
  | nop => ⟨.nop, none⟩
  | rst => ⟨.rst, none⟩
  | stat => ⟨.stat, none⟩
  | crcInit => ⟨.crcInit, none⟩
  | crcRead => ⟨.crcRead, none⟩
  | frmClr => ⟨.frmClr, none⟩
  | frmCmd => ⟨.frmCmd, none⟩
  | frmHalf => ⟨.frmHalf, none⟩

end Instr

end Sys2Proof
end

