-- ==== Sys2Proof/Machine/Operands.lean ====
section
/-! DEFINITION. The operand forms of the operation word (R50): the fields of `OPW`, the format of each row of
R52, and the immediates each format allows. No immediate is sign-extended, scaled or scattered (R50). -/

namespace Sys2Proof.Machine

/-- `op = OPW[63:56]` (R50). -/
def opField (w : OpWord) : Byte := w.extractLsb' 56 8

/-- `rsv = OPW[55:32]` (R50). -/
def rsvField (w : OpWord) : BitVec 24 := w.extractLsb' 32 24

/-- `imm = OPW[31:0]` (R50). -/
def immField (w : OpWord) : Word32 := w.extractLsb' 0 32

/-- `OPW = {op, rsv, imm}` (R50). -/
def packWord (op : Byte) (rsv : BitVec 24) (imm : Word32) : OpWord := op ++ rsv ++ imm

/-- The operand of format B, `b = imm[7:0]` (R50). -/
def immByte (imm : Word32) : Byte := imm.extractLsb' 0 8

/-- `imm[31:8]`, must be zero in format B (R50, R51). -/
def immHigh (imm : Word32) : BitVec 24 := imm.extractLsb' 8 24

/-- The operand of format W, `v = imm[31:0]` (R50). -/
def immWord (imm : Word32) : Word32 := imm

/-- A byte operand as an immediate: zero bits above it (R50). -/
def byteImm (b : Byte) : Word32 := b.setWidth 32

/-- A word operand as an immediate (R50). -/
def wordImm (v : Word32) : Word32 := v

/-- The format of each row of R52. -/
def formatOf : Mnemonic → Format
  | .nop => .noOperand
  | .rst => .noOperand
  | .stat => .noOperand
  | .crcInit => .noOperand
  | .crcSeed => .wordOperand
  | .crcByte => .byteOperand
  | .crcRead => .noOperand
  | .frmClr => .noOperand
  | .frmOpc => .wordOperand
  | .frmPush => .byteOperand
  | .frmCmd => .noOperand
  | .frmHalf => .noOperand

/-- The immediates a format allows (R50, column "Legal imm"). -/
def legalImm (f : Format) (imm : Word32) : Bool :=
  match f with
  | .noOperand => imm == 0#32
  | .byteOperand => immHigh imm == 0#24
  | .wordOperand => true

end Sys2Proof.Machine
end

