-- ==== Sys2Proof/Decode.lean ====
section
/-! DEFINITION. The decoder of operation words, total on all 64-bit values (R50 to R53), and after it the
encoder, both from R50's fields and R52's op codes. -/

namespace Sys2Proof

/-- Why an operation word is illegal (R53). -/
inductive Illegal where
  /-- One of the 244 op codes that R52 does not list. -/
  | reservedOpCode
  /-- A listed op code with a must-be-zero bit set. -/
  | mustBeZero
  deriving DecidableEq, Repr

/-- The op code of each row of R52. -/
def opCode : Mnemonic → Byte
  | .nop => 0x00#8
  | .rst => 0x01#8
  | .stat => 0x02#8
  | .crcInit => 0x10#8
  | .crcSeed => 0x11#8
  | .crcByte => 0x12#8
  | .crcRead => 0x13#8
  | .frmClr => 0x20#8
  | .frmOpc => 0x21#8
  | .frmPush => 0x22#8
  | .frmCmd => 0x23#8
  | .frmHalf => 0x24#8

/-- The row an op code selects, none for a reserved op code (R52, R53). -/
def mnemonicOf (op : Byte) : Option Mnemonic :=
  Mnemonic.all.find? (fun m => opCode m == op)

/-- The operation of a row with the operand its format takes from the immediate (R50). -/
def instrOf (m : Mnemonic) (imm : Word32) : Instr :=
  match m with
  | .nop => .nop
  | .rst => .rst
  | .stat => .stat
  | .crcInit => .crcInit
  | .crcSeed => .crcSeed (Machine.immWord imm)
  | .crcByte => .crcByte (Machine.immByte imm)
  | .crcRead => .crcRead
  | .frmClr => .frmClr
  | .frmOpc => .frmOpc (Machine.immWord imm)
  | .frmPush => .frmPush (Machine.immByte imm)
  | .frmCmd => .frmCmd
  | .frmHalf => .frmHalf

/-- Decoding, a function of the 64 bits alone (R51): the op code selects a row, and every bit the row does not
use must be zero. -/
def decode (w : OpWord) : Except Illegal Instr :=
  match mnemonicOf (Machine.opField w) with
  | none => .error .reservedOpCode
  | some m =>
    if Machine.rsvField w = 0#24 ∧ Machine.legalImm (Machine.formatOf m) (Machine.immField w) = true then
      .ok (instrOf m (Machine.immField w))
    else
      .error .mustBeZero

/-- The host's entry: the word is one 64-bit value (R31), so bit 0 of the table is bit 0 of `OPW`; the bits
above nbits are zero. No operation is longer than 64 bits (R50; log entry 3). -/
def decodeTableWord (nbits w : Nat) : Option Instr :=
  if nbits ≤ 64 then
    match decode (BitVec.ofNat 64 (w % 2 ^ nbits)) with
    | .ok i => some i
    | .error _ => none
  else
    none

/-- The immediate of an operation: its operand, zero where it has none (R50). -/
def immOf : Instr → Word32
  | .crcSeed v => Machine.wordImm v
  | .crcByte b => Machine.byteImm b
  | .frmOpc v => Machine.wordImm v
  | .frmPush b => Machine.byteImm b
  | .nop => 0#32
  | .rst => 0#32
  | .stat => 0#32
  | .crcInit => 0#32
  | .crcRead => 0#32
  | .frmClr => 0#32
  | .frmCmd => 0#32
  | .frmHalf => 0#32

/-- Encoding: `OPW = {op, 0x000000, imm}` (R50, R64). -/
def encode (i : Instr) : OpWord :=
  Machine.packWord (opCode i.mnemonic) 0#24 (immOf i)

/-- A row of R52's table, as (match, mask). -/
structure TableRow where
  pattern : OpWord
  mask    : OpWord
  deriving DecidableEq, Repr

/-- R52's table of match and mask, in its order; the decoder above is written from R50's fields instead. -/
def opTable : List TableRow :=
  [⟨0x0000000000000000#64, 0xFFFFFFFFFFFFFFFF#64⟩,
   ⟨0x0100000000000000#64, 0xFFFFFFFFFFFFFFFF#64⟩,
   ⟨0x0200000000000000#64, 0xFFFFFFFFFFFFFFFF#64⟩,
   ⟨0x1000000000000000#64, 0xFFFFFFFFFFFFFFFF#64⟩,
   ⟨0x1100000000000000#64, 0xFFFFFFFF00000000#64⟩,
   ⟨0x1200000000000000#64, 0xFFFFFFFFFFFFFF00#64⟩] ++
  [⟨0x1300000000000000#64, 0xFFFFFFFFFFFFFFFF#64⟩,
   ⟨0x2000000000000000#64, 0xFFFFFFFFFFFFFFFF#64⟩,
   ⟨0x2100000000000000#64, 0xFFFFFFFF00000000#64⟩,
   ⟨0x2200000000000000#64, 0xFFFFFFFFFFFFFF00#64⟩,
   ⟨0x2300000000000000#64, 0xFFFFFFFFFFFFFFFF#64⟩,
   ⟨0x2400000000000000#64, 0xFFFFFFFFFFFFFFFF#64⟩]

/-- R51: a word matches a row when `(OPW & mask) = match`. -/
def TableRow.covers (r : TableRow) (w : OpWord) : Bool := w &&& r.mask == r.pattern

end Sys2Proof
end

