-- ==== Sys2Proof/Machine/State.lean ====
section
/-! DEFINITION. The state of CE-CFS: the registers and the history of 10_state.md (R10 to R20), and the two
fields of the model's own that carry the operation port and the response port (20_memory.md R31, R32). The block
has no program counter (R16) and no addressable memory (R30), so State holds neither. -/

namespace Sys2Proof.Machine

/-- A response `(code, data)` (R32). -/
structure Response where
  code : Byte
  data : Word32
  deriving DecidableEq, Repr

/-- What can arrive at the block from outside, one at a time (R31, R39, R150; log entries 1, 4, 5). -/
inductive PortEvent where
  /-- The host issues one operation word (R31). -/
  | issue (w : OpWord)
  /-- Hardware reset, which happens only between operations (R150). -/
  | reset
  /-- Two agents issue a word at the same time, which the spec tells a model to refuse (R39, U9). -/
  | contention (first second : OpWord)
  deriving DecidableEq, Repr

/-- The whole state (R19), then the model's own two fields. `PLEN` is `pay.length` (R14; log entry 6). -/
structure State where
  /-- `CRC`, the running checksum in the finalized domain (R10). -/
  crc  : Word32
  /-- `OPC`, the wire opcode of the next command frame (R11). -/
  opc  : Word32
  /-- `PAY`, the payload bytes pushed so far, exactly `PLEN` of them (R12, R14). -/
  pay  : List Byte
  /-- `POVF`, a byte was pushed into the full buffer (R13). -/
  povf : Bool
  /-- `PTL`, sticky: a `PayloadTooLarge` error has occurred (R15). -/
  ptl  : Bool
  /-- `IHS`, sticky: an `InvalidHalfPageSize` error has occurred (R15). -/
  ihs  : Bool
  /-- `ILL`, sticky: an `IllegalOperation` error has occurred (R15). -/
  ill  : Bool
  /-- `TX`, every frame emitted so far, oldest first (R18). -/
  tx   : List Frame
  /-- The model's own: what the host will do, next event first (DESIGN CHOICE, log entry 1). -/
  port : List PortEvent
  /-- The model's own: every response given so far, oldest first; no operation reads it (DESIGN CHOICE, log
  entry 2). -/
  responses : List Response
  deriving DecidableEq, Repr

/-- No step of CE-CFS stops with a fault: its three errors are responses with a defined next state (R130, R133),
and every operation completes (R158). So the type has no constructor. -/
inductive Fault
  deriving DecidableEq, Repr

/-- Why the model gives no meaning. -/
inductive Refusal where
  /-- Raised by an arm of `exec` for an operation that has no meaning yet; no arm raises it. Safe. -/
  | notModelled (mnemonic : String)
  /-- Raised by `step` when two agents issue at once: "a model must refuse it (give it no meaning), not
  interleave it" (R39, U9; log entry 5). Safe. -/
  | concurrentIssue
  deriving DecidableEq, Repr

/-- The machine right after reset (R20, R150), at the start of a run (`TX = []`). The empty `port` and
`responses` are DESIGN CHOICEs (log entries 1 and 2). -/
def State.reset : State where
  crc := 0x00000000#32
  opc := 0x00000000#32
  pay := []
  povf := false
  ptl := false
  ihs := false
  ill := false
  tx := []
  port := []
  responses := []

end Sys2Proof.Machine
end

