-- ==== Sys2Proof/Machine/Flags.lean ====
section
/-! DEFINITION. The status word and the sticky error flags: `PLEN`, `STATUS` (R17), the three errors with their
codes and flags (R130), and what sets and clears a flag (R15). The block has no arithmetic condition code (R15). -/

namespace Sys2Proof.Machine

/-- The three errors of R130. -/
inductive ErrorKind where
  | payloadTooLarge
  | invalidHalfPageSize
  | illegalOperation
  deriving DecidableEq, Repr

/-- Response code OK (R130). -/
def okCode : Byte := 0x00#8

/-- `code(E)` (R130). -/
def errorCode : ErrorKind → Byte
  | .payloadTooLarge => 0x01#8
  | .invalidHalfPageSize => 0x02#8
  | .illegalOperation => 0x03#8

/-- `flag(E) <- 1` (R130, R133). -/
def setFlag (e : ErrorKind) (s : State) : State :=
  match e with
  | .payloadTooLarge => { s with ptl := true }
  | .invalidHalfPageSize => { s with ihs := true }
  | .illegalOperation => { s with ill := true }

/-- `PTL <- 0; IHS <- 0; ILL <- 0` (R15, R121). -/
def clearFlags (s : State) : State :=
  { s with ptl := false, ihs := false, ill := false }

/-- `PLEN = len(PAY)` (R12, R14). -/
def plen (s : State) : Nat := s.pay.length

/-- `STATUS = {zext_21(0), ILL, IHS, PTL, POVF, PLEN}` (R17). `PLEN` is never above 64 (R12), so its 7 bits
hold it whole; in a list longer than a run can reach the field would wrap (log entry 6). -/
def status (s : State) : Word32 :=
  0#21 ++ BitVec.ofBool s.ill ++ BitVec.ofBool s.ihs ++ BitVec.ofBool s.ptl ++ BitVec.ofBool s.povf
    ++ BitVec.ofNat 7 (plen s)

end Sys2Proof.Machine
end

