-- ==== Sys2Proof/Machine/Ops.lean ====
section
/-! DEFINITION. The shared operations on the state: register writes, the payload buffer, the frame port, the
response port, `raise` (the block's only form of exception, R133; there is no return from one, R139), reset
(R150) and taking the next event off the operation port (R31, R36). -/

namespace Sys2Proof.Machine

/-- `CRC <- v`. -/
def writeCrc (v : Word32) (s : State) : State := { s with crc := v }

/-- `OPC <- v`. -/
def writeOpc (v : Word32) (s : State) : State := { s with opc := v }

/-- `PAY <- []; PLEN <- 0; POVF <- 0` (R100, R103, R104, R121). -/
def emptyPay (s : State) : State := { s with pay := [], povf := false }

/-- The buffer's part of FRM.PUSH: append below the capacity, mark the overflow at it (R102, R12, R13). -/
def pushPay (b : Byte) (s : State) : State :=
  if plen s < Config.payCap then
    { s with pay := s.pay ++ [b] }
  else
    { s with povf := true }

/-- `respond(code, data)` (R32): the response is appended to the history the model keeps (log entry 2). -/
def respond (code : Byte) (data : Word32) (s : State) : State :=
  { s with responses := s.responses ++ [⟨code, data⟩] }

/-- `respond(0x00, 0x00000000)`. -/
def respondOk (s : State) : State := respond okCode 0#32 s

/-- `raise E` (R133): the flag, the response, and nothing else. -/
def raise (e : ErrorKind) (s : State) : State := respond (errorCode e) 0#32 (setFlag e s)

/-- `TX <- TX ++ [f]` (R18, R33). -/
def emitFrame (f : Frame) (s : State) : State := { s with tx := s.tx ++ [f] }

/-- Every register of both units at its reset value; `TX` and the model's own fields are kept (R20, R121). -/
def resetRegisters (s : State) : State :=
  clearFlags (emptyPay (writeOpc 0x00000000#32 (writeCrc Config.defaultSeed s)))

/-- Hardware reset: the effect of RST on the state, without a response (R150). -/
def hardwareReset (s : State) : State := resetRegisters s

/-- The next event at the operation port and the state with it taken off (R31, R36). -/
def takeEvent (s : State) : Option (PortEvent × State) :=
  match s.port with
  | [] => none
  | e :: rest => some (e, { s with port := rest })

/-- `le32(v)` (00_scope.md section 5, R34). -/
def le32 (v : Word32) : List Byte :=
  [v.extractLsb' 0 8, v.extractLsb' 8 8, v.extractLsb' 16 8, v.extractLsb' 24 8]

/-- `zeros(n)` (00_scope.md section 5). -/
def zeros (n : Nat) : List Byte := List.replicate n 0x00#8

/-- The command frame of opcode `o` and payload `p`: `le32(o) || p || zeros(60 - len(p))` (R54). -/
def commandFrame (o : Word32) (p : List Byte) : Frame :=
  le32 o ++ p ++ zeros (Config.payloadMax - p.length)

/-- The half-page frame of the bytes `d`: the bytes themselves (R55). -/
def halfPageFrame (d : List Byte) : Frame := d

end Sys2Proof.Machine
end

