-- ==== Sys2Proof/Machine/Crc.lean ====
section
/-! DEFINITION. The CRC unit: the function of R84, R80 and R85, and the operations CRC.INIT, CRC.SEED, CRC.BYTE
and CRC.READ (R86 to R89). -/

namespace Sys2Proof.Machine

/-- One of the eight steps of R84: shift right, and xor the polynomial if the bit shifted out was 1. -/
def rawStep (t : Word32) : Word32 :=
  if t.getLsbD 0 then (t >>> 1) ^^^ Config.crcPoly else t >>> 1

/-- The step `n` times. -/
def rawSteps : Nat → Word32 → Word32
  | 0, t => t
  | n + 1, t => rawSteps n (rawStep t)

/-- `raw_upd(r, b)` (R84): the byte enters at the low 8 bits, then eight steps. -/
def rawUpd (r : Word32) (b : Byte) : Word32 := rawSteps 8 (r ^^^ b.setWidth 32)

/-- `raw_run`, `raw_upd` folded over a byte sequence from the left (R80). -/
def rawRun : Word32 → List Byte → Word32
  | r, [] => r
  | r, b :: m => rawRun (rawUpd r b) m

/-- `crc_upd(c, b) = not_32(raw_upd(not_32(c), b))` (R80). -/
def crcUpd (c : Word32) (b : Byte) : Word32 :=
  rawUpd (c ^^^ Config.crcXorOut) b ^^^ Config.crcXorOut

/-- `crc_run(c, m)`, `crc_upd` folded over `m` from the left (R80). -/
def crcRun : Word32 → List Byte → Word32
  | c, [] => c
  | c, b :: m => crcRun (crcUpd c b) m

/-- D0's function `crc32(m, seed) = crc_run(seed, m)` (R80, R81). -/
def crc32 (m : List Byte) (seed : Word32) : Word32 := crcRun seed m

/-- The table entry `T[i] = raw_upd(0x00000000, i)` (R85): a constant function, not state (R19). -/
def crcTable (i : Byte) : Word32 := rawUpd 0x00000000#32 i

/-- The table form of the byte update (R85). -/
def tableUpd (r : Word32) (b : Byte) : Word32 :=
  crcTable ((r ^^^ b.setWidth 32).extractLsb' 0 8) ^^^ (r >>> 8)

/-- CRC.INIT (R86). -/
def execCrcInit (s : State) : Host.Outcome State Fault Refusal :=
  .next (respondOk (writeCrc Config.defaultSeed s))

/-- CRC.SEED (R87). -/
def execCrcSeed (v : Word32) (s : State) : Host.Outcome State Fault Refusal :=
  .next (respondOk (writeCrc v s))

/-- CRC.BYTE (R88). -/
def execCrcByte (b : Byte) (s : State) : Host.Outcome State Fault Refusal :=
  .next (respondOk (writeCrc (crcUpd s.crc b) s))

/-- CRC.READ (R89): the value is already finalized. -/
def execCrcRead (s : State) : Host.Outcome State Fault Refusal :=
  .next (respond okCode s.crc s)

end Sys2Proof.Machine
end

