-- ==== Sys2Proof/Machine/Frame.lean ====
section
/-! DEFINITION. The frame unit: FRM.CLR, FRM.OPC, FRM.PUSH, FRM.CMD and FRM.HALF (R100 to R104). -/

namespace Sys2Proof.Machine

/-- FRM.CLR (R100). -/
def execFrmClr (s : State) : Host.Outcome State Fault Refusal :=
  .next (respondOk (emptyPay s))

/-- FRM.OPC (R101): every 32-bit value is legal, the block knows no `CMDTAB` (R61). -/
def execFrmOpc (v : Word32) (s : State) : Host.Outcome State Fault Refusal :=
  .next (respondOk (writeOpc v s))

/-- FRM.PUSH (R102): a push into the full buffer is no error. -/
def execFrmPush (b : Byte) (s : State) : Host.Outcome State Fault Refusal :=
  .next (respondOk (pushPay b s))

/-- FRM.CMD (R103, R134): the check comes before every write (R138). -/
def execFrmCmd (s : State) : Host.Outcome State Fault Refusal :=
  if s.povf = true ∨ Config.payloadMax < plen s then
    .next (raise .payloadTooLarge s)
  else
    .next (respondOk (emptyPay (emitFrame (commandFrame s.opc s.pay) s)))

/-- FRM.HALF (R104, R135): the check comes before every write (R138). -/
def execFrmHalf (s : State) : Host.Outcome State Fault Refusal :=
  if s.povf = true ∨ plen s ≠ Config.halfLen then
    .next (raise .invalidHalfPageSize s)
  else
    .next (respondOk (emptyPay (emitFrame (halfPageFrame s.pay) s)))

end Sys2Proof.Machine
end

