-- ==== Sys2Proof/Machine/System.lean ====
section
/-! DEFINITION. The system operations NOP, RST and STAT (R120 to R122), and what an illegal operation word does
(R136). -/

namespace Sys2Proof.Machine

/-- NOP (R120). -/
def execNop (s : State) : Host.Outcome State Fault Refusal :=
  .next (respondOk s)

/-- RST (R121): the effect of a hardware reset, and a response. -/
def execRst (s : State) : Host.Outcome State Fault Refusal :=
  .next (respondOk (resetRegisters s))

/-- STAT (R122): responds `STATUS` as it is when STAT executes (R17). -/
def execStat (s : State) : Host.Outcome State Fault Refusal :=
  .next (respond okCode (status s) s)

/-- A word that is no operation performs `raise IllegalOperation` and nothing else (R136). -/
def execIllegal (s : State) : Host.Outcome State Fault Refusal :=
  .next (raise .illegalOperation s)

end Sys2Proof.Machine
end

