-- ==== Sys2Proof/Machine/Dispatch.lean ====
section
/-! DEFINITION. One arm per operation of R52, each a direct call of its meaning. -/

namespace Sys2Proof.Machine

def exec (i : Instr) (s : State) : Host.Outcome State Fault Refusal :=
  match i with
  -- system operations (42_system.md)
  | .nop => Sys2Proof.Machine.execNop s
  | .rst => Sys2Proof.Machine.execRst s
  | .stat => Sys2Proof.Machine.execStat s
  -- the CRC unit (40_crc.md)
  | .crcInit => Sys2Proof.Machine.execCrcInit s
  | .crcSeed v => Sys2Proof.Machine.execCrcSeed v s
  | .crcByte b => Sys2Proof.Machine.execCrcByte b s
  | .crcRead => Sys2Proof.Machine.execCrcRead s
  -- the frame unit (41_frame.md)
  | .frmClr => Sys2Proof.Machine.execFrmClr s
  | .frmOpc v => Sys2Proof.Machine.execFrmOpc v s
  | .frmPush b => Sys2Proof.Machine.execFrmPush b s
  | .frmCmd => Sys2Proof.Machine.execFrmCmd s
  | .frmHalf => Sys2Proof.Machine.execFrmHalf s

end Sys2Proof.Machine
end

