-- ==== Sys2Proof/Machine/Step.lean ====
section
/-! DEFINITION. One step: take the next event off the operation port and perform it (R31, R36). Between
operations nothing changes (R31), so with no event the step leaves the state as it is. -/

namespace Sys2Proof.Machine

/-- An operation word is decoded first and then executed (R138); an illegal word raises `IllegalOperation` (R136);
a hardware reset gives no response (R150); two agents at once are refused (R39; log entry 5). -/
def step (s : State) : Host.Outcome State Fault Refusal :=
  match takeEvent s with
  | none => .next s
  | some (.issue w, s') =>
    match decode w with
    | .ok i => exec i s'
    | .error _ => execIllegal s'
  | some (.reset, s') => .next (hardwareReset s')
  | some (.contention _ _, _) => .refused .concurrentIssue

/-- The word issued next at the operation port, before whatever was waiting there (R31; log entry 3). -/
def State.withFetchWord (s : State) (nbits w : Nat) : State :=
  { s with port := .issue (BitVec.ofNat 64 (w % 2 ^ nbits)) :: s.port }

end Sys2Proof.Machine
end

