-- ==== Sys2Proof/WellFormed.lean ====
section
/-! DEFINITION. Which assembler lines the assembler accepts (R64). An `Instr` needs no check of its own: its
operands have the width of their field (log entry 7). -/

namespace Sys2Proof

/-- R64: "A format-B operand must be in 0 to 255 and a format-W operand in 0 to 0xFFFFFFFF; the assembler
refuses anything else". A format-B or format-W line without an operand is refused: DESIGN CHOICE, log entry 10 (R64's
"operand 0 when there is none" could also be read as giving such a line the operand 0). A format-N line with an operand
is refused, 0 included: DEDUCED, log entry 10. -/
def SourceLine.wf (l : SourceLine) : Bool :=
  match Machine.formatOf l.mnemonic, l.operand with
  | .noOperand, none => true
  | .noOperand, some _ => false
  | .byteOperand, some n => decide (n < 256)
  | .byteOperand, none => false
  | .wordOperand, some n => decide (n < 4294967296)
  | .wordOperand, none => false

/-- The well-formedness of an operation is that of its assembler line. -/
def Instr.wf (i : Instr) : Bool := i.toSource.wf

end Sys2Proof
end

