-- ==== Sys2Proof/Machine/Assembler.lean ====
section
/-! DEFINITION. Assembler lines (R64): from the characters of a line to its operation word. The block does not
depend on this file. What R64 leaves to the writer of an assembler (white space, letter case of hexadecimal
digits, a format-B or format-W line without an operand) is DESIGN CHOICE, and what the model infers from it (a line
without a mnemonic, a format-N line with an operand) is DEDUCED: log entry 10. -/

namespace Sys2Proof.Machine

/-- The spelling of each mnemonic (R52, R64). -/
def mnemonicText : Mnemonic → List Char
  | .nop => ['N', 'O', 'P']
  | .rst => ['R', 'S', 'T']
  | .stat => ['S', 'T', 'A', 'T']
  | .crcInit => ['C', 'R', 'C', '.', 'I', 'N', 'I', 'T']
  | .crcSeed => ['C', 'R', 'C', '.', 'S', 'E', 'E', 'D']
  | .crcByte => ['C', 'R', 'C', '.', 'B', 'Y', 'T', 'E']
  | .crcRead => ['C', 'R', 'C', '.', 'R', 'E', 'A', 'D']
  | .frmClr => ['F', 'R', 'M', '.', 'C', 'L', 'R']
  | .frmOpc => ['F', 'R', 'M', '.', 'O', 'P', 'C']
  | .frmPush => ['F', 'R', 'M', '.', 'P', 'U', 'S', 'H']
  | .frmCmd => ['F', 'R', 'M', '.', 'C', 'M', 'D']
  | .frmHalf => ['F', 'R', 'M', '.', 'H', 'A', 'L', 'F']

/-- The mnemonic a word of the line spells, in upper case only (R64). -/
def readMnemonic (t : List Char) : Option Mnemonic :=
  Mnemonic.all.find? (fun m => mnemonicText m == t)

/-- The value of a digit in a base of at most 16; hexadecimal letters in either case (log entry 10). -/
def digitValue (base : Nat) (c : Char) : Option Nat :=
  let n := c.toNat
  let v := if 48 ≤ n ∧ n ≤ 57 then some (n - 48)
    else if 65 ≤ n ∧ n ≤ 70 then some (n - 55)
    else if 97 ≤ n ∧ n ≤ 102 then some (n - 87)
    else none
  v.filter (fun d => decide (d < base))

/-- Digits after the value `acc` read so far. -/
def readDigits (base : Nat) : Nat → List Char → Option Nat
  | acc, [] => some acc
  | acc, c :: cs =>
    match digitValue base c with
    | none => none
    | some d => readDigits base (acc * base + d) cs

/-- An operand: "a number in decimal or in hexadecimal with `0x`" (R64). -/
def readNumber (t : List Char) : Option Nat :=
  match t with
  | [] => none
  | '0' :: 'x' :: [] => none
  | '0' :: 'x' :: d :: ds => readDigits 16 0 (d :: ds)
  | d :: ds => readDigits 10 0 (d :: ds)

/-- "Text after `;` is a comment" (R64). -/
def dropComment (line : List Char) : List Char := line.takeWhile (fun c => c != ';')

/-- The words of a line, split at spaces and tabs; `cur` is the word being read (log entry 10). -/
def splitWords (cur : List Char) : List Char → List (List Char)
  | [] => if cur = [] then [] else [cur]
  | c :: cs =>
    if c = ' ' ∨ c = '\t' then
      if cur = [] then splitWords [] cs else cur :: splitWords [] cs
    else
      splitWords (cur ++ [c]) cs

/-- One line as `MNEMONIC` or `MNEMONIC operand` (R64); a line of any other shape is refused. -/
def readLine (line : List Char) : Option SourceLine :=
  match splitWords [] (dropComment line) with
  | [m] => (readMnemonic m).map (fun m => ⟨m, none⟩)
  | [m, o] =>
    match readMnemonic m, readNumber o with
    | some m, some n => some ⟨m, some n⟩
    | _, _ => none
  | _ => none

/-- The operation word of a line, `{op, 0x000000, zext_32(operand)}`, operand 0 when there is none; an
ill-formed line is refused (R64). The lines without an operand that are accepted are those of format N (DESIGN CHOICE,
log entry 10). -/
def assemble (l : SourceLine) : Option OpWord :=
  if l.wf then
    some (packWord (opCode l.mnemonic) 0#24 (BitVec.ofNat 32 (l.operand.getD 0)))
  else
    none

/-- The operation word of a line of text (R64). -/
def assembleLine (line : List Char) : Option OpWord := (readLine line).bind assemble

end Sys2Proof.Machine
end

