-- ==== Sys2Proof/Machine/Transpose.lean ====
section
/-! DEFINITION. The helper `xpose4` of R3, outside the block: no operation of CE-CFS applies it. -/

namespace Sys2Proof.Machine

/-- The bytes of each consecutive 4-byte group in reversed order, none if a group is left incomplete (R3). -/
def xposeGroups : List Byte → Option (List Byte)
  | [] => some []
  | [_] => none
  | [_, _] => none
  | [_, _, _] => none
  | b0 :: b1 :: b2 :: b3 :: rest =>
    match xposeGroups rest with
    | none => none
    | some out => some (b3 :: b2 :: b1 :: b0 :: out)

/-- `xpose4(s)`, defined when the length is a positive multiple of 4; none stands for D0's `UnalignedBuffer`
(R3; log entry 11). -/
def xpose4 (s : List Byte) : Option (List Byte) :=
  match s with
  | [] => none
  | b :: rest => xposeGroups (b :: rest)

end Sys2Proof.Machine
end

