-- ==== Sys2Proof/Machine/Pseudo.lean ====
section
/-! DEFINITION. The pseudo-operations of R66, each a sequence of operations, over a `CMDTAB` given as an argument
(R60, R61), and the default `CMDTAB` (R60, R63). No operation of the block depends on this file. -/

namespace Sys2Proof.Machine

/-- The pseudo-operations of R66. -/
inductive PseudoOp where
  | crc32 (bytes : List Byte)
  | crc32s (seed : Word32) (bytes : List Byte)
  | send (opcode : Word32) (bytes : List Byte)
  | sendHalf (bytes : List Byte)
  | cmdTest
  | cmdReset
  | cmdGetLog
  | cmdStart
  | cmdProgPage (n lo hi : Word32)
  | cmdEnd
  | cmdJump
  deriving DecidableEq, Repr

/-- The expansion of `SEND opcode, bytes` (R66). -/
def expandSend (opcode : Word32) (bytes : List Byte) : List Instr :=
  [.frmClr, .frmOpc opcode] ++ bytes.map .frmPush ++ [.frmCmd]

/-- `SEND` with a row of `CMDTAB` (R66). -/
def expandRow (r : Config.CmdRow) : List Instr := expandSend r.opcode r.payload

/-- The ProgramPage payload (R62, D15): three 32-bit fields, each little-endian. -/
def progPagePayload (n lo hi : Word32) : List Byte := le32 n ++ le32 lo ++ le32 hi

/-- The expansion of a pseudo-operation (R66). -/
def expand (tab : Config.CmdTab) : PseudoOp → List Instr
  | .crc32 bytes => [.crcInit] ++ bytes.map .crcByte ++ [.crcRead]
  | .crc32s seed bytes => [.crcSeed seed] ++ bytes.map .crcByte ++ [.crcRead]
  | .send opcode bytes => expandSend opcode bytes
  | .sendHalf bytes => [.frmClr] ++ bytes.map .frmPush ++ [.frmHalf]
  | .cmdTest => expandRow tab.test
  | .cmdReset => expandRow tab.reset
  | .cmdGetLog => expandRow tab.getLog
  | .cmdStart => expandRow tab.startProgramming
  | .cmdProgPage n lo hi => expandSend tab.programPage (progPagePayload n lo hi)
  | .cmdEnd => expandRow tab.endProgramming
  | .cmdJump => expandRow tab.jumpToApp

/-- The default `CMDTAB` (R60), its strings as the ASCII bytes of R63 (PRESUMED: general knowledge, G1; log
entry 9). -/
def defaultCmdTab : Config.CmdTab where
  test := ⟨0x0000003C#32,
    [0x54#8, 0x65#8, 0x73#8, 0x74#8, 0x20#8, 0x43#8, 0x6F#8, 0x6D#8, 0x6D#8, 0x61#8, 0x6E#8, 0x64#8]⟩
  reset := ⟨0x000000FF#32, [0x52#8, 0x65#8, 0x73#8, 0x65#8, 0x74#8, 0x00#8]⟩
  getLog := ⟨0x00000001#32, [0x47#8, 0x65#8, 0x74#8, 0x20#8, 0x4C#8, 0x6F#8, 0x67#8, 0x00#8]⟩
  startProgramming := ⟨0x00000002#32,
    [0x53#8, 0x74#8, 0x61#8, 0x72#8, 0x74#8, 0x20#8, 0x50#8, 0x72#8, 0x6F#8, 0x67#8, 0x72#8, 0x61#8, 0x6D#8,
     0x6D#8, 0x69#8, 0x6E#8, 0x67#8, 0x00#8]⟩
  programPage := 0x00000003#32
  endProgramming := ⟨0x00000004#32,
    [0x45#8, 0x6E#8, 0x64#8, 0x20#8, 0x50#8, 0x72#8, 0x6F#8, 0x67#8, 0x72#8, 0x61#8, 0x6D#8, 0x6D#8, 0x69#8,
     0x6E#8, 0x67#8, 0x00#8]⟩
  jumpToApp := ⟨0x00000008#32,
    [0x4A#8, 0x75#8, 0x6D#8, 0x70#8, 0x20#8, 0x74#8, 0x6F#8, 0x20#8, 0x41#8, 0x70#8, 0x70#8, 0x00#8]⟩

end Sys2Proof.Machine
end

