-- ==== Sys2Proof/Safety.lean ====
section
/-! DEFINITION. The terms in which claims are stated: the invariant of the state, sequences of operations, and
what the two units hold. -/

namespace Sys2Proof

open Machine

/-- What every state of a run satisfies: `PLEN` is 0 to 64 (R12), `POVF` stands only over a full buffer (R13),
every frame of `TX` has 64 bytes (R107, R33), and a response is OK or one of the three errors with data zero
(R32, R130). -/
abbrev Inv (s : State) : Prop :=
  s.pay.length ≤ 64 ∧
  (s.povf = true → s.pay.length = 64) ∧
  (∀ f ∈ s.tx, f.length = 64) ∧
  (∀ r ∈ s.responses, r.code.toNat ≤ 3 ∧ (r.code ≠ 0x00#8 → r.data = 0x00000000#32))

/-- The operations of a list one after the other, each complete before the next (R36). -/
def execAll : List Instr → State → Host.Outcome State Fault Refusal
  | [], s => .next s
  | i :: rest, s =>
    match exec i s with
    | .next t => execAll rest t
    | .fault r => .fault r
    | .refused r => .refused r

/-- The bytes that the CRC.BYTE operations of a list feed, in order (R88). -/
def fedBytes : List Instr → List Byte
  | [] => []
  | .crcByte b :: rest => b :: fedBytes rest
  | _ :: rest => fedBytes rest

/-- The bytes that the FRM.PUSH operations of a list push, in order (R102). -/
def pushedBytes : List Instr → List Byte
  | [] => []
  | .frmPush b :: rest => b :: pushedBytes rest
  | _ :: rest => pushedBytes rest

/-- The value of `OPC` after a list of operations without RST, from the value `o` (R101). -/
def lastOpcode : Word32 → List Instr → Word32
  | o, [] => o
  | _, .frmOpc v :: rest => lastOpcode v rest
  | o, _ :: rest => lastOpcode o rest

/-- Operations that do not start the checksum anew: all but RST, CRC.INIT and CRC.SEED (R91). -/
def keepsChecksumGoing : Instr → Bool
  | .rst => false
  | .crcInit => false
  | .crcSeed _ => false
  | _ => true

/-- Operations that neither empty the payload buffer nor send it: all but RST, FRM.CLR, FRM.CMD and FRM.HALF
(R105, R106). -/
def keepsPayloadGrowing : Instr → Bool
  | .rst => false
  | .frmClr => false
  | .frmCmd => false
  | .frmHalf => false
  | _ => true

/-- What the frame unit holds (R1, 10_state.md section 1): its registers, the flags it sets, and `TX`. -/
structure FrameView where
  opc  : Word32
  pay  : List Byte
  povf : Bool
  ptl  : Bool
  ihs  : Bool
  tx   : List Frame
  deriving DecidableEq, Repr

/-- The frame unit's part of a state. -/
def frameView (s : State) : FrameView := ⟨s.opc, s.pay, s.povf, s.ptl, s.ihs, s.tx⟩

/-- A word that decodes to no operation (R53). -/
def IllegalWord (w : OpWord) : Prop := ∃ e, decode w = .error e

end Sys2Proof
end

