-- ==== Sys2Proof/Certificates/Slice0/Obligations.lean ====
section
/-! DEFINITION. The statements for the provers. Each docstring names the rule or section of spec/ it formalises.
The machine is `step` and `exec`; `execAll` runs a list of operations; `Inv` is the invariant of Safety.lean. An
operation word the host issues (R31) stands at the head of `port`, and a response (R32) is the last entry of
`responses`: the model's own fields for the two ports (log entries 1 and 2). No statement rests on their value at
reset. -/

open Sys2Proof Sys2Proof.Machine

/-! ## Encoding -/

/-- 30_encoding.md sections 1 and 2: no bit of an operation is lost by its word, whatever its operand. -/
def Obligations.DecodeOfEncodeIsTheOperation : Prop :=
  ∀ i : Instr, decode (encode i) = .ok i

/-- 30_encoding.md sections 1 and 2: a legal word is the word of the operation it decodes to. -/
def Obligations.EncodeOfDecodeIsTheWord : Prop :=
  ∀ (w : OpWord) (i : Instr), decode w = .ok i → encode i = w

/-- R51: legality by match and mask, what the masks leave free, and that at most one row matches. -/
def Obligations.WordIsLegalExactlyWhenARowMatches : Prop :=
  (∀ w : OpWord, (∃ i, decode w = .ok i) ↔ ∃ r ∈ opTable, w &&& r.mask = r.pattern) ∧
  opTable = Mnemonic.all.map (fun m =>
    ⟨opCode m ++ 0x000000#24 ++ 0x00000000#32,
     match formatOf m with
     | .noOperand => 0xFFFFFFFFFFFFFFFF#64
     | .byteOperand => 0xFFFFFFFFFFFFFF00#64
     | .wordOperand => 0xFFFFFFFF00000000#64⟩) ∧
  (∀ w : OpWord, ∀ r ∈ opTable, ∀ r' ∈ opTable,
    w &&& r.mask = r.pattern → w &&& r'.mask = r'.pattern → r = r')

/-- R53 and R136: which words are illegal, what they do, and that no operation but NOP acts as one. -/
def Obligations.IllegalWordsOnlyRaiseIllegalOperation : Prop :=
  (∀ w : OpWord, (∀ r ∈ opTable, w &&& r.mask ≠ r.pattern) → IllegalWord w) ∧
  (∀ w : OpWord, opField w ∉ [0x00#8, 0x01#8, 0x02#8, 0x10#8, 0x11#8, 0x12#8, 0x13#8,
      0x20#8, 0x21#8, 0x22#8, 0x23#8, 0x24#8] → IllegalWord w) ∧
  ((List.range 256).filter (fun n => mnemonicOf (BitVec.ofNat 8 n) == none)).length = 244 ∧
  (∀ (w : OpWord) (m : Mnemonic), opField w = opCode m →
    (rsvField w ≠ 0x000000#24 ∨ (formatOf m = .noOperand ∧ immField w ≠ 0x00000000#32) ∨
      (formatOf m = .byteOperand ∧ (immField w).extractLsb' 8 24 ≠ 0x000000#24)) → IllegalWord w) ∧
  (∀ (s : State) (w : OpWord) (rest : List PortEvent), s.port = .issue w :: rest → IllegalWord w →
    step s = .next { s with
      port := rest, ill := true, responses := s.responses ++ [⟨0x03#8, 0x00000000#32⟩] }) ∧
  (∀ (w : OpWord) (i : Instr), decode w = .ok i →
    (∀ s : State, exec i s = .next { s with responses := s.responses ++ [⟨0x00#8, 0x00000000#32⟩] }) →
    w = 0x0000000000000000#64)

/-- 95_test_vectors.md section 5: words written out from the encoding, one or more per family. -/
def Obligations.SampleWordsDecodeAsTheSpecSays : Prop :=
  decode 0x0100000000000000#64 = .ok .rst ∧
  decode 0x11000000FFFFFFFF#64 = .ok (.crcSeed 0xFFFFFFFF#32) ∧
  decode 0x12000000000000FF#64 = .ok (.crcByte 0xFF#8) ∧
  decode 0x21000000DEADBEEF#64 = .ok (.frmOpc 0xDEADBEEF#32) ∧
  decode 0x2200000000000041#64 = .ok (.frmPush 0x41#8) ∧
  decode 0x1200000000000100#64 = .error .mustBeZero ∧
  decode 0x2500000000000000#64 = .error .reservedOpCode

/-! ## The step -/

/-- R36, R31: a word at the operation port that decodes to an operation is taken off the port and that operation is
executed. The port as a list is the model's choice (log entry 1). -/
def Obligations.StepRunsTheDecodedOperation : Prop :=
  ∀ (s : State) (w : OpWord) (rest : List PortEvent) (i : Instr),
    s.port = .issue w :: rest → decode w = .ok i → step s = exec i { s with port := rest }

/-- R31: between operations nothing changes. That the step then answers the same state is the model's choice (log
entry 1). -/
def Obligations.NoEventLeavesTheStateAsItIs : Prop :=
  ∀ s : State, s.port = [] → step s = .next s

/-- R39: two agents at once are refused, not interleaved. The event that stands for it is the model's choice (log
entry 5). -/
def Obligations.ConcurrentIssueIsRefused : Prop :=
  ∀ (s : State) (w₁ w₂ : OpWord) (rest : List PortEvent),
    s.port = .contention w₁ w₂ :: rest → step s = .refused .concurrentIssue

/-- R36: the words of a list of operations at the port run as those operations one after the other. -/
def Obligations.StepsOverThePortAreTheOperationsInOrder : Prop :=
  ∀ (is : List Instr) (rest : List PortEvent) (s : State),
    s.port = is.map (fun i => PortEvent.issue (encode i)) ++ rest →
    Host.Core.run Sys2Proof.core is.length s = execAll is { s with port := rest }

/-! ## Reset -/

/-- R20: the reset values, `STATUS` among them, and the same after RST with `TX` kept. -/
def Obligations.ResetValuesOfEveryRegister : Prop :=
  State.reset.crc = 0x00000000#32 ∧ State.reset.opc = 0x00000000#32 ∧ State.reset.pay = [] ∧
  plen State.reset = 0 ∧ State.reset.povf = false ∧ State.reset.ptl = false ∧ State.reset.ihs = false ∧
  State.reset.ill = false ∧ status State.reset = 0x00000000#32 ∧ State.reset.tx = [] ∧
  (∀ s : State, ∃ t, exec .rst s = .next t ∧ t.crc = 0x00000000#32 ∧ t.opc = 0x00000000#32 ∧ t.pay = [] ∧
    plen t = 0 ∧ t.povf = false ∧ t.ptl = false ∧ t.ihs = false ∧ t.ill = false ∧
    status t = 0x00000000#32 ∧ t.tx = s.tx)

/-- R150: a hardware reset, at any state, gives the reset values, keeps `TX`, gives no response, and has on the
state the effect of RST. -/
def Obligations.HardwareResetEqualsRstWithoutResponse : Prop :=
  ∀ (s : State) (rest : List PortEvent), s.port = .reset :: rest →
    step s = .next { s with
      port := rest, crc := 0x00000000#32, opc := 0x00000000#32, pay := [], povf := false, ptl := false,
      ihs := false, ill := false } ∧
    (∃ t, exec .rst { s with port := rest } = .next t ∧
      step s = .next { t with responses := s.responses }) ∧
    State.reset.tx = []

/-- The invariant of Safety.lean (R12, R13, R107, R130, R32) holds at reset. -/
def Obligations.ResetStateMeetsTheInvariant : Prop := Inv State.reset

/-- R12, R13, R107, R130, R32: every step keeps the invariant of Safety.lean, from every state that has it. -/
def Obligations.StepKeepsTheStateInvariant : Prop :=
  ∀ s t : State, Inv s → step s = .next t → Inv t

/-! ## System operations -/

/-- R120: NOP's word, its effect, and that no other word with op code 0 is legal. -/
def Obligations.NopOnlyResponds : Prop :=
  encode .nop = 0x0000000000000000#64 ∧
  (∀ s : State, exec .nop s = .next { s with responses := s.responses ++ [⟨0x00#8, 0x00000000#32⟩] }) ∧
  (∀ w : OpWord, opField w = 0x00#8 → w ≠ 0x0000000000000000#64 → IllegalWord w)

/-- R121: RST's word, its effect, that it is idempotent on the registers, and that no other operation clears a
sticky flag. -/
def Obligations.RstRestoresEveryRegister : Prop :=
  encode .rst = 0x0100000000000000#64 ∧
  (∀ s : State, exec .rst s = .next { s with
    crc := 0x00000000#32, opc := 0x00000000#32, pay := [], povf := false, ptl := false, ihs := false,
    ill := false, responses := s.responses ++ [⟨0x00#8, 0x00000000#32⟩] }) ∧
  (∀ s t : State, exec .rst s = .next t → ∃ u, exec .rst t = .next u ∧ { u with responses := t.responses } = t) ∧
  (∀ (i : Instr) (s t : State), i ≠ .rst → exec i s = .next t →
    (s.ptl = true → t.ptl = true) ∧ (s.ihs = true → t.ihs = true) ∧ (s.ill = true → t.ill = true))

/-- R122: STAT's word and its effect; of a state that meets the invariant `PLEN` reads 0 to 64. -/
def Obligations.StatRespondsTheStatusWord : Prop :=
  encode .stat = 0x0200000000000000#64 ∧
  (∀ s : State, exec .stat s = .next { s with responses := s.responses ++ [⟨0x00#8,
    0#21 ++ BitVec.ofBool s.ill ++ BitVec.ofBool s.ihs ++ BitVec.ofBool s.ptl ++ BitVec.ofBool s.povf
      ++ BitVec.ofNat 7 s.pay.length⟩] }) ∧
  (∀ s t : State, Inv s → exec .stat s = .next t →
    ∃ d, t.responses.getLast? = some ⟨0x00#8, d⟩ ∧ (d.extractLsb' 0 7).toNat ≤ 64)

/-- 10_state.md section 5 (R17): the places of the fields in the status word. -/
def Obligations.StatusWordLayout : Prop :=
  ∀ s : State, Inv s →
    ((status s).extractLsb' 0 7).toNat = s.pay.length ∧
    (status s).getLsbD 7 = s.povf ∧ (status s).getLsbD 8 = s.ptl ∧ (status s).getLsbD 9 = s.ihs ∧
    (status s).getLsbD 10 = s.ill ∧ (∀ k, 11 ≤ k → (status s).getLsbD k = false)

/-! ## The CRC function -/

/-- R84: the byte enters at the low 8 bits, then eight steps; with the rule's example, step by step. -/
def Obligations.RawUpdateIsEightShiftSteps : Prop :=
  (∀ t : Word32, rawStep t =
    if t.getLsbD 0 = true then (t >>> 1) ^^^ 0xEDB88320#32 else t >>> 1) ∧
  (∀ (r : Word32) (b : Byte), rawUpd r b = rawStep^[8] (r ^^^ b.setWidth 32)) ∧
  (List.range 8).map (fun n => rawStep^[n + 1] (0xFFFFFFFF#32 ^^^ (0x01#8).setWidth 32)) =
    [0x7FFFFFFF#32, 0xD2477CDF#32, 0x849B3D4F#32, 0xAFF51D87#32, 0xBA420DE3#32, 0xB09985D1#32,
     0xB5F441C8#32, 0x5AFA20E4#32]

/-- R85: the table form and the bit-serial form are the same function; with the four entries the rule prints. -/
def Obligations.TableFormEqualsBitSerialForm : Prop :=
  (∀ i : Byte, crcTable i = rawUpd 0x00000000#32 i) ∧
  (∀ (r : Word32) (b : Byte),
    rawUpd r b = crcTable ((r ^^^ b.setWidth 32).extractLsb' 0 8) ^^^ (r >>> 8)) ∧
  crcTable 0x00#8 = 0x00000000#32 ∧ crcTable 0x01#8 = 0x77073096#32 ∧
  crcTable 0x80#8 = 0xEDB88320#32 ∧ crcTable 0xFF#8 = 0x2D02EF8D#32

/-- R80: the finalized domain; the complement pairs of the intermediate values cancel. -/
def Obligations.FinalizedRunIsComplementOfRawRun : Prop :=
  (∀ (c : Word32) (b : Byte), crcUpd c b = ~~~ (rawUpd (~~~ c) b)) ∧
  (∀ c : Word32, crcRun c [] = c) ∧
  (∀ (c : Word32) (m : List Byte) (b : Byte), crcRun c (m ++ [b]) = crcUpd (crcRun c m) b) ∧
  (∀ (seed : Word32) (m : List Byte), crc32 m seed = crcRun seed m) ∧
  (∀ (c : Word32) (m : List Byte), crcRun c m = ~~~ (rawRun (~~~ c) m)) ∧
  (∀ m : List Byte, crc32 m 0x00000000#32 = ~~~ (rawRun 0xFFFFFFFF#32 m))

/-- R82: carrying the running value forward as the seed gives the checksum of the concatenation. -/
def Obligations.ContinuationLaw : Prop :=
  ∀ (a b : List Byte) (s : Word32),
    crcRun s (a ++ b) = crcRun (crcRun s a) b ∧
    crc32 (a ++ b) 0x00000000#32 = crc32 b (crc32 a 0x00000000#32)

/-- 40_crc.md section 2 item 1: raw register 0 is a fixed point under zero bytes; from zero it is not. -/
def Obligations.ZeroBytesFixTheAllOnesValue : Prop :=
  (∀ n : Nat, crcRun 0xFFFFFFFF#32 (List.replicate n 0x00#8) = 0xFFFFFFFF#32) ∧
  crcUpd 0xFFFFFFFF#32 0x00#8 = 0xFFFFFFFF#32 ∧
  crcUpd 0x00000000#32 0x00#8 = 0xD202EF8D#32

/-- 40_crc.md section 2 item 2: for a fixed byte the update is a bijection. -/
def Obligations.ByteUpdateIsABijection : Prop :=
  ∀ b : Byte, Function.Bijective (fun c : Word32 => crcUpd c b)

/-- 40_crc.md section 2 item 3: the difference two seeds make depends on their xor and the length alone. -/
def Obligations.SeedDifferenceLaw : Prop :=
  ∀ (c d : Word32) (m : List Byte),
    crcRun (c ^^^ d) m ^^^ crcRun c m =
      crcRun d (List.replicate m.length 0x00#8) ^^^ crcRun 0x00000000#32 (List.replicate m.length 0x00#8)

/-- 40_crc.md section 2 item 4: the checksum of a bytewise xor of two messages of one length. -/
def Obligations.MessageDifferenceLaw : Prop :=
  ∀ (c : Word32) (m₁ m₂ : List Byte), m₁.length = m₂.length →
    crcRun c (List.zipWith (fun x y => x ^^^ y) m₁ m₂) =
      crcRun c m₁ ^^^ crcRun c m₂ ^^^ crcRun c (List.replicate m₁.length 0x00#8)

/-! ## CRC operations -/

/-- R86: CRC.INIT's word, its effect, that it equals CRC.SEED 0, and that no other word with its op code is
legal. -/
def Obligations.CrcInitWritesTheDefaultSeed : Prop :=
  encode .crcInit = 0x1000000000000000#64 ∧
  (∀ w : OpWord, opField w = 0x10#8 → w ≠ 0x1000000000000000#64 → IllegalWord w) ∧
  (∀ s : State, exec .crcInit s = .next { s with
    crc := 0x00000000#32, responses := s.responses ++ [⟨0x00#8, 0x00000000#32⟩] }) ∧
  (∀ s : State, exec .crcInit s = exec (.crcSeed 0x00000000#32) s)

/-- R87: CRC.SEED's word and its effect; the value 0xFFFFFFFF stands for the raw register 0, and the present value
resumes the computation. -/
def Obligations.CrcSeedWritesItsOperand : Prop :=
  (∀ v : Word32, encode (.crcSeed v) = 0x11#8 ++ 0x000000#24 ++ v) ∧
  (∀ (v : Word32) (s : State), exec (.crcSeed v) s = .next { s with
    crc := v, responses := s.responses ++ [⟨0x00#8, 0x00000000#32⟩] }) ∧
  (∀ s : State, exec (.crcSeed 0x00000000#32) s = exec .crcInit s) ∧
  (∀ m : List Byte, crcRun 0xFFFFFFFF#32 m = ~~~ (rawRun 0x00000000#32 m)) ∧
  (∀ s : State, exec (.crcSeed s.crc) s = .next { s with
    responses := s.responses ++ [⟨0x00#8, 0x00000000#32⟩] })

/-- R88: CRC.BYTE's word, its effect, the must-be-zero bits above its byte, and that a byte need not change
`CRC`. -/
def Obligations.CrcByteFeedsOneByte : Prop :=
  (∀ b : Byte, encode (.crcByte b) = 0x12#8 ++ 0x000000#24 ++ 0x000000#24 ++ b) ∧
  (∀ w : OpWord, opField w = 0x12#8 → (immField w).extractLsb' 8 24 ≠ 0x000000#24 → IllegalWord w) ∧
  (∀ (b : Byte) (s : State), exec (.crcByte b) s = .next { s with
    crc := ~~~ (rawUpd (~~~ s.crc) b), responses := s.responses ++ [⟨0x00#8, 0x00000000#32⟩] }) ∧
  (∀ s : State, s.crc = 0xFFFFFFFF#32 → exec (.crcByte 0x00#8) s = .next { s with
    responses := s.responses ++ [⟨0x00#8, 0x00000000#32⟩] })

/-- R89: CRC.READ's word and its effect: the finalized value is the response and no state is written. -/
def Obligations.CrcReadRespondsTheChecksum : Prop :=
  encode .crcRead = 0x1300000000000000#64 ∧
  (∀ s : State, exec .crcRead s = .next { s with responses := s.responses ++ [⟨0x00#8, s.crc⟩] }) ∧
  (∀ s : State, ∃ t, execAll [.crcInit, .crcRead] s = .next t ∧
    t.responses.getLast? = some ⟨0x00#8, 0x00000000#32⟩) ∧
  (∀ s : State, ∃ t, execAll [.rst, .crcRead] s = .next t ∧
    t.responses.getLast? = some ⟨0x00#8, 0x00000000#32⟩) ∧
  (∀ (v : Word32) (s : State), ∃ t, execAll [.crcSeed v, .crcRead] s = .next t ∧
    t.responses.getLast? = some ⟨0x00#8, v⟩)

/-- R91: a seed, any operations that do not start the checksum anew, a read: the response is the checksum of the
bytes fed, from every state. RST, CRC.INIT and CRC.SEED each start it anew, and re-seeding with the value held is
no change. -/
def Obligations.OperationSequenceComputesTheChecksum : Prop :=
  (∀ (seed : Word32) (is : List Instr) (s : State), (∀ i ∈ is, keepsChecksumGoing i = true) →
    (∃ t, execAll ([.crcSeed seed] ++ is ++ [.crcRead]) s = .next t ∧
      t.crc = crc32 (fedBytes is) seed ∧ t.responses.getLast? = some ⟨0x00#8, crc32 (fedBytes is) seed⟩) ∧
    (∃ t, execAll ([.crcInit] ++ is ++ [.crcRead]) s = .next t ∧
      t.responses.getLast? = some ⟨0x00#8, crc32 (fedBytes is) 0x00000000#32⟩) ∧
    (∃ t, execAll ([.rst] ++ is ++ [.crcRead]) s = .next t ∧
      t.responses.getLast? = some ⟨0x00#8, crc32 (fedBytes is) 0x00000000#32⟩)) ∧
  (∀ s : State, ∃ t, exec (.crcSeed s.crc) s = .next t ∧ t.crc = s.crc)

/-! ## Frame operations -/

/-- R100: FRM.CLR's word, its effect, and that it is idempotent on the registers. -/
def Obligations.FrmClrEmptiesTheBuffer : Prop :=
  encode .frmClr = 0x2000000000000000#64 ∧
  (∀ s : State, exec .frmClr s = .next { s with
    pay := [], povf := false, responses := s.responses ++ [⟨0x00#8, 0x00000000#32⟩] }) ∧
  (∀ s t : State, exec .frmClr s = .next t →
    ∃ u, exec .frmClr t = .next u ∧ { u with responses := t.responses } = t)

/-- R101: FRM.OPC's word and its effect, and that `OPC` stays until the next FRM.OPC or RST. -/
def Obligations.FrmOpcWritesTheWireOpcode : Prop :=
  (∀ v : Word32, encode (.frmOpc v) = 0x21#8 ++ 0x000000#24 ++ v) ∧
  (∀ (v : Word32) (s : State), exec (.frmOpc v) s = .next { s with
    opc := v, responses := s.responses ++ [⟨0x00#8, 0x00000000#32⟩] }) ∧
  (∀ (i : Instr) (s t : State), (∀ v, i ≠ .frmOpc v) → i ≠ .rst → exec i s = .next t → t.opc = s.opc)

/-- R102: FRM.PUSH's word and its effect below the capacity and at it. -/
def Obligations.FrmPushAppendsOrMarksOverflow : Prop :=
  (∀ b : Byte, encode (.frmPush b) = 0x22#8 ++ 0x000000#24 ++ 0x000000#24 ++ b) ∧
  (∀ w : OpWord, opField w = 0x22#8 → (immField w).extractLsb' 8 24 ≠ 0x000000#24 → IllegalWord w) ∧
  (∀ (b : Byte) (s : State), exec (.frmPush b) s = .next
    (if s.pay.length < 64 then
      { s with pay := s.pay ++ [b], responses := s.responses ++ [⟨0x00#8, 0x00000000#32⟩] }
    else
      { s with povf := true, responses := s.responses ++ [⟨0x00#8, 0x00000000#32⟩] }))

/-- R103: FRM.CMD's word, its effect when the payload fits, and its error when it does not. -/
def Obligations.FrmCmdEmitsTheCommandFrameOrFails : Prop :=
  encode .frmCmd = 0x2300000000000000#64 ∧
  (∀ s : State, s.povf = false → s.pay.length ≤ 60 → exec .frmCmd s = .next { s with
    tx := s.tx ++ [[s.opc.extractLsb' 0 8, s.opc.extractLsb' 8 8, s.opc.extractLsb' 16 8,
      s.opc.extractLsb' 24 8] ++ s.pay ++ List.replicate (60 - s.pay.length) 0x00#8],
    pay := [], povf := false, responses := s.responses ++ [⟨0x00#8, 0x00000000#32⟩] }) ∧
  (∀ s : State, (s.povf = true ∨ 60 < s.pay.length) → exec .frmCmd s = .next { s with
    ptl := true, responses := s.responses ++ [⟨0x01#8, 0x00000000#32⟩] })

/-- R104: FRM.HALF's word, its effect on exactly 64 bytes, and its error otherwise. -/
def Obligations.FrmHalfEmitsTheHalfPageOrFails : Prop :=
  encode .frmHalf = 0x2400000000000000#64 ∧
  (∀ s : State, s.povf = false → s.pay.length = 64 → exec .frmHalf s = .next { s with
    tx := s.tx ++ [s.pay], pay := [], povf := false,
    responses := s.responses ++ [⟨0x00#8, 0x00000000#32⟩] }) ∧
  (∀ s : State, (s.povf = true ∨ s.pay.length ≠ 64) → exec .frmHalf s = .next { s with
    ihs := true, responses := s.responses ++ [⟨0x02#8, 0x00000000#32⟩] })

/-- R54, R34: the command frame byte by byte. -/
def Obligations.CommandFrameLayout : Prop :=
  ∀ (o : Word32) (p : List Byte), p.length ≤ 60 →
    (commandFrame o p).length = 64 ∧
    commandFrame o p = le32 o ++ p ++ zeros (60 - p.length) ∧
    (commandFrame o p)[0]? = some (o.extractLsb' 0 8) ∧ (commandFrame o p)[1]? = some (o.extractLsb' 8 8) ∧
    (commandFrame o p)[2]? = some (o.extractLsb' 16 8) ∧ (commandFrame o p)[3]? = some (o.extractLsb' 24 8) ∧
    (∀ k, k < p.length → (commandFrame o p)[4 + k]? = p[k]?) ∧
    (∀ k, p.length ≤ k → k < 60 → (commandFrame o p)[4 + k]? = some 0x00#8)

/-- 70_reset_and_hazards.md section 3 (R159): trailing zero bytes of a payload cannot be told from padding. -/
def Obligations.TrailingZerosGiveTheSameFrame : Prop :=
  ∀ (o : Word32) (p : List Byte) (n : Nat), p.length + n ≤ 60 →
    commandFrame o (p ++ List.replicate n 0x00#8) = commandFrame o p

/-- 10_state.md section 2 (R12, R13): after FRM.CLR the buffer holds the first 64 bytes pushed, and the overflow
mark tells whether there were more. -/
def Obligations.BufferHoldsTheFirst64PushedBytes : Prop :=
  ∀ (is : List Instr) (s : State), (∀ i ∈ is, keepsPayloadGrowing i = true) →
    ∃ t, execAll ([.frmClr] ++ is) s = .next t ∧ t.pay = (pushedBytes is).take 64 ∧
      t.povf = decide (64 < (pushedBytes is).length)

/-- R105: FRM.CLR, any operations that neither empty nor send the buffer, FRM.CMD: one command frame of the opcode
last written and the bytes pushed, or `PayloadTooLarge` and no frame, from every state. -/
def Obligations.OperationSequenceSendsTheCommand : Prop :=
  ∀ (is : List Instr) (s : State), (∀ i ∈ is, keepsPayloadGrowing i = true) →
    ∃ t, execAll ([.frmClr] ++ is ++ [.frmCmd]) s = .next t ∧
      ((pushedBytes is).length ≤ 60 →
        t.responses.getLast? = some ⟨0x00#8, 0x00000000#32⟩ ∧
        t.tx = s.tx ++ [le32 (lastOpcode s.opc is) ++ pushedBytes is ++ zeros (60 - (pushedBytes is).length)]) ∧
      (61 ≤ (pushedBytes is).length →
        t.responses.getLast? = some ⟨0x01#8, 0x00000000#32⟩ ∧ t.ptl = true ∧ t.tx = s.tx)

/-- R106: FRM.CLR, any operations that neither empty nor send the buffer, FRM.HALF: the 64 bytes pushed as one
frame, or `InvalidHalfPageSize` and no frame, from every state. -/
def Obligations.OperationSequenceSendsTheHalfPage : Prop :=
  ∀ (is : List Instr) (s : State), (∀ i ∈ is, keepsPayloadGrowing i = true) →
    ∃ t, execAll ([.frmClr] ++ is ++ [.frmHalf]) s = .next t ∧
      ((pushedBytes is).length = 64 →
        t.responses.getLast? = some ⟨0x00#8, 0x00000000#32⟩ ∧ t.tx = s.tx ++ [pushedBytes is]) ∧
      ((pushedBytes is).length ≠ 64 →
        t.responses.getLast? = some ⟨0x02#8, 0x00000000#32⟩ ∧ t.ihs = true ∧ t.tx = s.tx)

/-- 41_frame.md section 2 (R107): a 128-byte page sent as two half-pages stands whole in the two frames. -/
def Obligations.TwoHalfPagesCarryThePage : Prop :=
  ∀ (tab : Config.CmdTab) (page : List Byte) (s : State), page.length = 128 →
    ∃ t f₁ f₂, execAll (expand tab (.sendHalf (page.take 64)) ++ expand tab (.sendHalf (page.drop 64))) s = .next t ∧
      t.tx = s.tx ++ [f₁, f₂] ∧ f₁.length = 64 ∧ f₂.length = 64 ∧ f₁ ++ f₂ = page

/-! ## What every operation does and leaves alone -/

/-- 10_state.md section 1, column "Written by": for every operation, the registers it does not write are
unchanged. -/
def Obligations.EveryRegisterHasOnlyItsWriters : Prop :=
  ∀ (i : Instr) (s t : State), exec i s = .next t →
    (t.crc = s.crc ∨ i = .crcInit ∨ (∃ v, i = .crcSeed v) ∨ (∃ b, i = .crcByte b) ∨ i = .rst) ∧
    (t.opc = s.opc ∨ (∃ v, i = .frmOpc v) ∨ i = .rst) ∧
    (t.pay = s.pay ∨ (∃ b, i = .frmPush b) ∨ i = .frmClr ∨ i = .frmCmd ∨ i = .frmHalf ∨ i = .rst) ∧
    (t.povf = s.povf ∨ (∃ b, i = .frmPush b) ∨ i = .frmClr ∨ i = .frmCmd ∨ i = .frmHalf ∨ i = .rst) ∧
    (t.ptl = s.ptl ∨ i = .frmCmd ∨ i = .rst) ∧ (t.ihs = s.ihs ∨ i = .frmHalf ∨ i = .rst) ∧
    (t.ill = s.ill ∨ i = .rst) ∧ (t.tx = s.tx ∨ i = .frmCmd ∨ i = .frmHalf) ∧ t.port = s.port

/-- R38 and the frames of NOP, STAT and CRC.READ: they write nothing but their response, and repeating one gives the
same response again. -/
def Obligations.FrameOfReadOnlyOperations : Prop :=
  ∀ (i : Instr) (s t : State), i ∈ [Instr.nop, Instr.stat, Instr.crcRead] → exec i s = .next t →
    ∃ r, t = { s with responses := s.responses ++ [r] } ∧
      exec i t = .next { s with responses := s.responses ++ [r, r] }

/-- The frame of CRC.INIT, CRC.SEED and CRC.BYTE (R86, R87, R88): all but `CRC` and the response is unchanged. -/
def Obligations.FrameOfCrcWriters : Prop :=
  ∀ (i : Instr) (s t : State),
    (i = .crcInit ∨ (∃ v, i = .crcSeed v) ∨ (∃ b, i = .crcByte b)) → exec i s = .next t →
    t = { s with crc := t.crc, responses := t.responses } ∧ s.responses <+: t.responses

/-- The frame of FRM.CLR, FRM.OPC, FRM.PUSH, FRM.CMD, FRM.HALF and RST: what each leaves alone, the bytes already in
the buffer for a push and the frames already in `TX` for all of them. -/
def Obligations.FrameOfFrameOperationsAndRst : Prop :=
  ∀ s t : State,
    (exec .frmClr s = .next t → t = { s with pay := t.pay, povf := t.povf, responses := t.responses }) ∧
    (∀ v, exec (.frmOpc v) s = .next t → t = { s with opc := t.opc, responses := t.responses }) ∧
    (∀ b, exec (.frmPush b) s = .next t →
      t = { s with pay := t.pay, povf := t.povf, responses := t.responses } ∧
      (∀ k, k < s.pay.length → t.pay[k]? = s.pay[k]?) ∧ (s.pay.length < 64 → t.povf = s.povf)) ∧
    (exec .frmCmd s = .next t →
      t = { s with pay := t.pay, povf := t.povf, ptl := t.ptl, tx := t.tx, responses := t.responses } ∧
      (∀ k, k < s.tx.length → t.tx[k]? = s.tx[k]?)) ∧
    (exec .frmHalf s = .next t →
      t = { s with pay := t.pay, povf := t.povf, ihs := t.ihs, tx := t.tx, responses := t.responses } ∧
      (∀ k, k < s.tx.length → t.tx[k]? = s.tx[k]?)) ∧
    (exec .rst s = .next t → t.tx = s.tx ∧ t.port = s.port)

/-- R32: one response per operation; a non-zero code comes with data zero; the data of a success; and no operation
reads a response given before. -/
def Obligations.EveryOperationGivesExactlyOneResponse : Prop :=
  (∀ (i : Instr) (s t : State), exec i s = .next t →
    ∃ r : Response, t.responses = s.responses ++ [r] ∧
      (r.code ≠ 0x00#8 → r.data = 0x00000000#32) ∧
      (r.code = 0x00#8 → r.data =
        match i with
        | .crcRead => s.crc
        | .stat => status s
        | .nop | .rst | .crcInit | .crcSeed _ | .crcByte _ | .frmClr | .frmOpc _ | .frmPush _ | .frmCmd | .frmHalf =>
          0x00000000#32)) ∧
  (∀ (s t : State) (w : OpWord) (rest : List PortEvent),
    s.port = .issue w :: rest → IllegalWord w → step s = .next t →
    ∃ r : Response, t.responses = s.responses ++ [r] ∧ r.code = 0x03#8 ∧ r.data = 0x00000000#32) ∧
  (∀ (i : Instr) (s t : State) (r : Response) (rs : List Response),
    exec i s = .next t → t.responses = s.responses ++ [r] →
    exec i { s with responses := rs } = .next { t with responses := rs ++ [r] })

/-- 60_exceptions.md section 1 (R130): which operation raises which error, and when. -/
def Obligations.ErrorCodesAndTheirCauses : Prop :=
  ∀ (i : Instr) (s t : State) (r : Response), exec i s = .next t → t.responses = s.responses ++ [r] →
    (r.code = 0x00#8 ∨ r.code = 0x01#8 ∨ r.code = 0x02#8) ∧
    (r.code = 0x01#8 ↔ i = .frmCmd ∧ (s.povf = true ∨ 60 < s.pay.length)) ∧
    (r.code = 0x02#8 ↔ i = .frmHalf ∧ (s.povf = true ∨ s.pay.length ≠ 64))

/-- 70_reset_and_hazards.md section 4 (R158): every word the host issues is performed to its end with one
response, whatever the state; so is a reset, with none. -/
def Obligations.EveryEventOfTheOneHostCompletes : Prop :=
  ∀ (s : State) (rest : List PortEvent),
    (∀ w : OpWord, s.port = .issue w :: rest →
      ∃ t r, step s = .next t ∧ t.port = rest ∧ t.responses = s.responses ++ [r]) ∧
    (s.port = .reset :: rest → ∃ t, step s = .next t ∧ t.port = rest ∧ t.responses = s.responses)

/-- R133: a step that gives an error response has set the flag of that error and changed nothing else. -/
def Obligations.FailingOperationChangesOnlyItsFlag : Prop :=
  ∀ (s t : State) (w : OpWord) (rest : List PortEvent) (r : Response),
    s.port = .issue w :: rest → step s = .next t → t.responses = s.responses ++ [r] → r.code ≠ 0x00#8 →
    r.data = 0x00000000#32 ∧
    t = { s with
      port := rest, responses := s.responses ++ [r],
      ptl := s.ptl || r.code == 0x01#8, ihs := s.ihs || r.code == 0x02#8, ill := s.ill || r.code == 0x03#8 }

/-- R15: a flag is set by the operation that reports its error and by no other, it is cleared by RST and reset
alone, and no operation but STAT depends on a flag: states that differ in flags give the same responses, and states that
differ in flags again. -/
def Obligations.StickyFlagsAreSetByErrorsAndReadByStatOnly : Prop :=
  (∀ (s t : State) (w : OpWord) (rest : List PortEvent) (r : Response),
    s.port = .issue w :: rest → decode w ≠ .ok .rst → step s = .next t → t.responses = s.responses ++ [r] →
    t.ptl = (s.ptl || r.code == 0x01#8) ∧ t.ihs = (s.ihs || r.code == 0x02#8) ∧
      t.ill = (s.ill || r.code == 0x03#8)) ∧
  (∀ (s t : State) (w : OpWord) (rest : List PortEvent), s.port = .issue w :: rest → decode w = .ok .rst →
    step s = .next t → t.ptl = false ∧ t.ihs = false ∧ t.ill = false) ∧
  (∀ (s t : State) (rest : List PortEvent), s.port = .reset :: rest → step s = .next t →
    t.ptl = false ∧ t.ihs = false ∧ t.ill = false) ∧
  (∀ (s t : State) (w : OpWord) (rest : List PortEvent) (p h l : Bool), s.port = .issue w :: rest →
    decode w ≠ .ok .stat → step s = .next t →
    ∃ p' h' l', step { s with ptl := p, ihs := h, ill := l } = .next { t with ptl := p', ihs := h', ill := l' })

/-- 20_memory.md section 2 (R33, R18): a step leaves `TX` as it is or appends one frame of 64 bytes, and then it was a
successful FRM.CMD or FRM.HALF. -/
def Obligations.TxGrowsByWholeFramesOnly : Prop :=
  ∀ s t : State, step s = .next t →
    t.tx = s.tx ∨
    ∃ f w rest, t.tx = s.tx ++ [f] ∧ f.length = 64 ∧ s.port = .issue w :: rest ∧
      (decode w = .ok .frmCmd ∨ decode w = .ok .frmHalf) ∧
      t.responses = s.responses ++ [⟨0x00#8, 0x00000000#32⟩]

/-- 00_scope.md section 1 (R1): neither unit reads or writes the other's state; RST and STAT excepted, and RST puts
each unit where it does whatever the other holds. -/
def Obligations.TheTwoUnitsAreIndependent : Prop :=
  ∀ (i : Instr) (s₁ s₂ t₁ t₂ : State), exec i s₁ = .next t₁ → exec i s₂ = .next t₂ →
    (s₁.crc = s₂.crc → t₁.crc = t₂.crc) ∧
    (frameView s₁ = frameView s₂ → frameView t₁ = frameView t₂) ∧
    (s₁.crc = s₂.crc → s₁.responses = s₂.responses →
      i ∈ [Instr.crcInit, Instr.crcRead] ∨ (∃ v, i = .crcSeed v) ∨ (∃ b, i = .crcByte b) →
      t₁.responses = t₂.responses) ∧
    (frameView s₁ = frameView s₂ → s₁.responses = s₂.responses →
      i ∈ [Instr.frmClr, Instr.frmCmd, Instr.frmHalf] ∨ (∃ v, i = .frmOpc v) ∨ (∃ b, i = .frmPush b) →
      t₁.responses = t₂.responses)

/-- 60_exceptions.md section 5 (R139): a failed send issued again fails again in the same way, and after FRM.CLR the
buffer is ready for a new payload. -/
def Obligations.RepeatingAFailedSendFailsAgain : Prop :=
  ∀ (i : Instr) (s t : State) (r : Response), exec i s = .next t →
    t.responses = s.responses ++ [r] → r.code ≠ 0x00#8 →
    exec i t = .next { t with responses := t.responses ++ [r] } ∧
    (∃ u, execAll [.frmClr, .frmCmd] t = .next u ∧ u.responses.getLast? = some ⟨0x00#8, 0x00000000#32⟩)

/-! ## Beside the block: pseudo-operations, assembler, transposition -/

/-- 30_encoding.md section 6 (R66): the pseudo-operations realise D0's functions, for every `CMDTAB` and from every
state. That the fields of ProgramPage are little-endian is the spec's own decision (R62, D15). -/
def Obligations.PseudoOperationsRealiseTheFunctions : Prop :=
  ∀ (tab : Config.CmdTab) (s : State),
    (∀ m, ∃ t, execAll (expand tab (.crc32 m)) s = .next t ∧
      t.responses.getLast? = some ⟨0x00#8, crc32 m 0x00000000#32⟩ ∧ t.tx = s.tx) ∧
    (∀ seed m, ∃ t, execAll (expand tab (.crc32s seed m)) s = .next t ∧
      t.responses.getLast? = some ⟨0x00#8, crc32 m seed⟩ ∧ t.tx = s.tx) ∧
    (∀ (o : Word32) (p : List Byte), p.length ≤ 60 → ∃ t, execAll (expand tab (.send o p)) s = .next t ∧
      t.responses.getLast? = some ⟨0x00#8, 0x00000000#32⟩ ∧ t.crc = s.crc ∧
      t.tx = s.tx ++ [le32 o ++ p ++ zeros (60 - p.length)]) ∧
    (∀ d : List Byte, d.length = 64 → ∃ t, execAll (expand tab (.sendHalf d)) s = .next t ∧
      t.responses.getLast? = some ⟨0x00#8, 0x00000000#32⟩ ∧ t.crc = s.crc ∧ t.tx = s.tx ++ [d]) ∧
    (∀ n lo hi : Word32, ∃ t, execAll (expand tab (.cmdProgPage n lo hi)) s = .next t ∧
      t.tx = s.tx ++ [le32 tab.programPage ++ le32 n ++ le32 lo ++ le32 hi ++ zeros 48])

/-- 30_encoding.md section 6 (R64): a well-formed line assembles to the word of the operation it spells, any other is
refused. That a format-B or format-W line without an operand is ill-formed is the model's choice (DESIGN CHOICE, log
entry 10), and that a format-N line with an operand is ill-formed is DEDUCED (log entry 10). -/
def Obligations.AssemblerLinesEncodeTheirOperation : Prop :=
  (∀ l : SourceLine, l.wf = true →
    ∃ i w, assemble l = some w ∧ decode w = .ok i ∧ i.toSource = l) ∧
  (∀ l : SourceLine, l.wf = false → assemble l = none) ∧
  (∀ i : Instr, assemble i.toSource = some (encode i))

/-- 00_scope.md section 6 (R3): the helper `xpose4`, its domain, its bytes, and that it is an involution. That the
empty sequence is refused is the model's inference from "a positive multiple of 4" (DEDUCED, log entry 11). -/
def Obligations.Xpose4ReversesEachGroupOfFour : Prop :=
  (∀ s : List Byte, 0 < s.length → s.length % 4 = 0 →
    ∃ out, xpose4 s = some out ∧ out.length = s.length ∧
      (∀ k j, j < 4 → 4 * k + 3 < s.length → out[4 * k + j]? = s[4 * k + 3 - j]?) ∧ xpose4 out = some s) ∧
  (∀ s : List Byte, (s.length = 0 ∨ s.length % 4 ≠ 0) → xpose4 s = none)
end

