-- ==== Sys2Proof/Laws/Crc.lean ====
section
/-! SUPPORT. The step of the CRC unit over xor, and the folds of R80 over lists. -/

namespace Sys2Proof.Machine

/-- One step is linear over xor (R90). -/
theorem rawStep_xor (x y : Word32) : rawStep (x ^^^ y) = rawStep x ^^^ rawStep y := by
  have hs : (x ^^^ y) >>> 1 = x >>> 1 ^^^ y >>> 1 := BitVec.ushiftRight_xor_distrib x y 1
  unfold rawStep
  rw [hs, BitVec.getLsbD_xor]
  generalize Config.crcPoly = p
  generalize x >>> 1 = a
  generalize y >>> 1 = b
  cases x.getLsbD 0 <;> cases y.getLsbD 0 <;> ext i <;> simp <;>
    cases a[i] <;> cases b[i] <;> cases p[i] <;> rfl

/-- So are any number of steps. -/
theorem rawSteps_xor (n : Nat) : ∀ x y : Word32, rawSteps n (x ^^^ y) = rawSteps n x ^^^ rawSteps n y := by
  induction n with
  | zero => intro x y; rfl
  | succ n ih => intro x y; rw [rawSteps, rawStep_xor, ih]; rfl

theorem rawSteps_zero_word (n : Nat) : rawSteps n 0#32 = 0#32 := by
  have h := rawSteps_xor n 0#32 0#32
  rwa [BitVec.xor_self, BitVec.xor_self] at h

@[simp] theorem crcRun_nil (c : Word32) : crcRun c [] = c := rfl

@[simp] theorem crcRun_cons (c : Word32) (b : Byte) (m : List Byte) : crcRun c (b :: m) = crcRun (crcUpd c b) m := rfl

@[simp] theorem rawRun_nil (r : Word32) : rawRun r [] = r := rfl

@[simp] theorem rawRun_cons (r : Word32) (b : Byte) (m : List Byte) : rawRun r (b :: m) = rawRun (rawUpd r b) m := rfl

end Sys2Proof.Machine
end

