-- ==== Sys2Proof/Laws/Decode.lean ====
section
/-! SUPPORT. The fields of a packed word, the op code map and its inverse, and what decoding can answer. -/

namespace Sys2Proof

namespace Machine

@[simp] theorem opField_packWord (op : Byte) (rsv : BitVec 24) (imm : Word32) :
    opField (packWord op rsv imm) = op := by
  ext i hi
  simp only [opField, packWord, BitVec.getElem_extractLsb', BitVec.getLsbD_append]
  rw [if_neg (by omega), if_neg (by omega), show 56 + i - 32 - 24 = i by omega]
  exact BitVec.getLsbD_eq_getElem hi

@[simp] theorem rsvField_packWord (op : Byte) (rsv : BitVec 24) (imm : Word32) :
    rsvField (packWord op rsv imm) = rsv := by
  ext i hi
  simp only [rsvField, packWord, BitVec.getElem_extractLsb', BitVec.getLsbD_append]
  rw [if_neg (by omega), if_pos (by omega), show 32 + i - 32 = i by omega]
  exact BitVec.getLsbD_eq_getElem hi

@[simp] theorem immField_packWord (op : Byte) (rsv : BitVec 24) (imm : Word32) :
    immField (packWord op rsv imm) = imm := by
  ext i hi
  simp only [immField, packWord, BitVec.getElem_extractLsb', BitVec.getLsbD_append]
  rw [if_pos (by omega), show 0 + i = i by omega]
  exact BitVec.getLsbD_eq_getElem hi

@[simp] theorem immByte_byteImm (b : Byte) : immByte (byteImm b) = b := by
  ext i hi
  simp only [immByte, byteImm, BitVec.getElem_extractLsb', BitVec.getLsbD_setWidth]
  rw [show 0 + i = i by omega]
  simp [show i < 32 by omega, BitVec.getLsbD_eq_getElem hi]

@[simp] theorem immHigh_byteImm (b : Byte) : immHigh (byteImm b) = 0#24 := by
  ext i hi
  simp only [immHigh, byteImm, BitVec.getElem_extractLsb', BitVec.getLsbD_setWidth]
  simp

/-- A word is its three fields (R50). -/
theorem packWord_fields (w : OpWord) : packWord (opField w) (rsvField w) (immField w) = w := by
  apply BitVec.eq_of_getLsbD_eq
  intro i hi
  simp only [packWord, opField, rsvField, immField, BitVec.getLsbD_append, BitVec.getLsbD_extractLsb']
  by_cases h1 : i < 32
  · simp [h1]
  · by_cases h2 : i < 56
    · simp [h1, show i - 32 < 24 by omega, show 32 + (i - 32) = i by omega]
    · simp [h1, show ¬ i - 32 < 24 by omega, show i - 32 - 24 < 8 by omega, show 56 + (i - 32 - 24) = i by omega]

end Machine

/-- The op code map is one to one: an op code selects the row it belongs to (R52). -/
theorem mnemonicOf_opCode (m : Mnemonic) : mnemonicOf (opCode m) = some m := by
  cases m <;> rfl

/-- Only its own op code selects a row (R52). -/
theorem opCode_of_mnemonicOf {op : Byte} {m : Mnemonic} (h : mnemonicOf op = some m) : opCode m = op :=
  eq_of_beq (List.find?_some (p := fun m => opCode m == op) h)

/-- Everything decoding can answer with an operation on: its row's op code, no reserved bit, a legal immediate. -/
theorem decode_eq_ok_iff (w : OpWord) (i : Instr) :
    decode w = .ok i ↔ ∃ m, mnemonicOf (Machine.opField w) = some m ∧ Machine.rsvField w = 0#24 ∧
      Machine.legalImm (Machine.formatOf m) (Machine.immField w) = true ∧ instrOf m (Machine.immField w) = i := by
  unfold decode
  cases mnemonicOf (Machine.opField w) with
  | none => simp
  | some m => by_cases h : Machine.rsvField w = 0#24 ∧
      Machine.legalImm (Machine.formatOf m) (Machine.immField w) = true
              · simp [h]
              · simp only [h, if_false, reduceCtorEq, Option.some.injEq, false_iff, not_exists]
                rintro m' ⟨rfl, hr, hl, -⟩
                exact h ⟨hr, hl⟩

/-- Every operation is well-formed: its operands have the width of their field (log entry 7). -/
theorem Instr.wf_eq_true (i : Instr) : i.wf = true := by
  cases i with
  | crcSeed v => exact decide_eq_true v.isLt
  | frmOpc v => exact decide_eq_true v.isLt
  | crcByte b => exact decide_eq_true b.isLt
  | frmPush b => exact decide_eq_true b.isLt
  | nop => rfl
  | rst => rfl
  | stat => rfl
  | crcInit => rfl
  | crcRead => rfl
  | frmClr => rfl
  | frmCmd => rfl
  | frmHalf => rfl

end Sys2Proof
end

