-- ==== Sys2Proof/Laws/State.lean ====
section
/-! SUPPORT. What each update of Machine/Flags.lean and Machine/Ops.lean does to each field of State, and the spec
lemmas of the shared operations. The two histories and the port are fields like the others. -/

namespace Sys2Proof.Machine

@[simp] theorem writeCrc_crc (v : Word32) (s : State) : (writeCrc v s).crc = v := rfl
@[simp] theorem writeCrc_opc (v : Word32) (s : State) : (writeCrc v s).opc = s.opc := rfl
@[simp] theorem writeCrc_pay (v : Word32) (s : State) : (writeCrc v s).pay = s.pay := rfl
@[simp] theorem writeCrc_povf (v : Word32) (s : State) : (writeCrc v s).povf = s.povf := rfl
@[simp] theorem writeCrc_ptl (v : Word32) (s : State) : (writeCrc v s).ptl = s.ptl := rfl
@[simp] theorem writeCrc_ihs (v : Word32) (s : State) : (writeCrc v s).ihs = s.ihs := rfl
@[simp] theorem writeCrc_ill (v : Word32) (s : State) : (writeCrc v s).ill = s.ill := rfl
@[simp] theorem writeCrc_tx (v : Word32) (s : State) : (writeCrc v s).tx = s.tx := rfl
@[simp] theorem writeCrc_port (v : Word32) (s : State) : (writeCrc v s).port = s.port := rfl
@[simp] theorem writeCrc_responses (v : Word32) (s : State) : (writeCrc v s).responses = s.responses := rfl

@[simp] theorem writeOpc_crc (v : Word32) (s : State) : (writeOpc v s).crc = s.crc := rfl
@[simp] theorem writeOpc_opc (v : Word32) (s : State) : (writeOpc v s).opc = v := rfl
@[simp] theorem writeOpc_pay (v : Word32) (s : State) : (writeOpc v s).pay = s.pay := rfl
@[simp] theorem writeOpc_povf (v : Word32) (s : State) : (writeOpc v s).povf = s.povf := rfl
@[simp] theorem writeOpc_ptl (v : Word32) (s : State) : (writeOpc v s).ptl = s.ptl := rfl
@[simp] theorem writeOpc_ihs (v : Word32) (s : State) : (writeOpc v s).ihs = s.ihs := rfl
@[simp] theorem writeOpc_ill (v : Word32) (s : State) : (writeOpc v s).ill = s.ill := rfl
@[simp] theorem writeOpc_tx (v : Word32) (s : State) : (writeOpc v s).tx = s.tx := rfl
@[simp] theorem writeOpc_port (v : Word32) (s : State) : (writeOpc v s).port = s.port := rfl
@[simp] theorem writeOpc_responses (v : Word32) (s : State) : (writeOpc v s).responses = s.responses := rfl

@[simp] theorem emptyPay_crc (s : State) : (emptyPay s).crc = s.crc := rfl
@[simp] theorem emptyPay_opc (s : State) : (emptyPay s).opc = s.opc := rfl
@[simp] theorem emptyPay_pay (s : State) : (emptyPay s).pay = [] := rfl
@[simp] theorem emptyPay_povf (s : State) : (emptyPay s).povf = false := rfl
@[simp] theorem emptyPay_ptl (s : State) : (emptyPay s).ptl = s.ptl := rfl
@[simp] theorem emptyPay_ihs (s : State) : (emptyPay s).ihs = s.ihs := rfl
@[simp] theorem emptyPay_ill (s : State) : (emptyPay s).ill = s.ill := rfl
@[simp] theorem emptyPay_tx (s : State) : (emptyPay s).tx = s.tx := rfl
@[simp] theorem emptyPay_port (s : State) : (emptyPay s).port = s.port := rfl
@[simp] theorem emptyPay_responses (s : State) : (emptyPay s).responses = s.responses := rfl

@[simp] theorem clearFlags_crc (s : State) : (clearFlags s).crc = s.crc := rfl
@[simp] theorem clearFlags_opc (s : State) : (clearFlags s).opc = s.opc := rfl
@[simp] theorem clearFlags_pay (s : State) : (clearFlags s).pay = s.pay := rfl
@[simp] theorem clearFlags_povf (s : State) : (clearFlags s).povf = s.povf := rfl
@[simp] theorem clearFlags_ptl (s : State) : (clearFlags s).ptl = false := rfl
@[simp] theorem clearFlags_ihs (s : State) : (clearFlags s).ihs = false := rfl
@[simp] theorem clearFlags_ill (s : State) : (clearFlags s).ill = false := rfl
@[simp] theorem clearFlags_tx (s : State) : (clearFlags s).tx = s.tx := rfl
@[simp] theorem clearFlags_port (s : State) : (clearFlags s).port = s.port := rfl
@[simp] theorem clearFlags_responses (s : State) : (clearFlags s).responses = s.responses := rfl

@[simp] theorem emitFrame_crc (f : Frame) (s : State) : (emitFrame f s).crc = s.crc := rfl
@[simp] theorem emitFrame_opc (f : Frame) (s : State) : (emitFrame f s).opc = s.opc := rfl
@[simp] theorem emitFrame_pay (f : Frame) (s : State) : (emitFrame f s).pay = s.pay := rfl
@[simp] theorem emitFrame_povf (f : Frame) (s : State) : (emitFrame f s).povf = s.povf := rfl
@[simp] theorem emitFrame_ptl (f : Frame) (s : State) : (emitFrame f s).ptl = s.ptl := rfl
@[simp] theorem emitFrame_ihs (f : Frame) (s : State) : (emitFrame f s).ihs = s.ihs := rfl
@[simp] theorem emitFrame_ill (f : Frame) (s : State) : (emitFrame f s).ill = s.ill := rfl
@[simp] theorem emitFrame_tx (f : Frame) (s : State) : (emitFrame f s).tx = s.tx ++ [f] := rfl
@[simp] theorem emitFrame_port (f : Frame) (s : State) : (emitFrame f s).port = s.port := rfl
@[simp] theorem emitFrame_responses (f : Frame) (s : State) : (emitFrame f s).responses = s.responses := rfl

@[simp] theorem respond_crc (c : Byte) (d : Word32) (s : State) : (respond c d s).crc = s.crc := rfl
@[simp] theorem respond_opc (c : Byte) (d : Word32) (s : State) : (respond c d s).opc = s.opc := rfl
@[simp] theorem respond_pay (c : Byte) (d : Word32) (s : State) : (respond c d s).pay = s.pay := rfl
@[simp] theorem respond_povf (c : Byte) (d : Word32) (s : State) : (respond c d s).povf = s.povf := rfl
@[simp] theorem respond_ptl (c : Byte) (d : Word32) (s : State) : (respond c d s).ptl = s.ptl := rfl
@[simp] theorem respond_ihs (c : Byte) (d : Word32) (s : State) : (respond c d s).ihs = s.ihs := rfl
@[simp] theorem respond_ill (c : Byte) (d : Word32) (s : State) : (respond c d s).ill = s.ill := rfl
@[simp] theorem respond_tx (c : Byte) (d : Word32) (s : State) : (respond c d s).tx = s.tx := rfl
@[simp] theorem respond_port (c : Byte) (d : Word32) (s : State) : (respond c d s).port = s.port := rfl
@[simp] theorem respond_responses (c : Byte) (d : Word32) (s : State) : (respond c d s).responses = s.responses ++ [⟨c, d⟩] := rfl

@[simp] theorem respondOk_crc (s : State) : (respondOk s).crc = s.crc := rfl
@[simp] theorem respondOk_opc (s : State) : (respondOk s).opc = s.opc := rfl
@[simp] theorem respondOk_pay (s : State) : (respondOk s).pay = s.pay := rfl
@[simp] theorem respondOk_povf (s : State) : (respondOk s).povf = s.povf := rfl
@[simp] theorem respondOk_ptl (s : State) : (respondOk s).ptl = s.ptl := rfl
@[simp] theorem respondOk_ihs (s : State) : (respondOk s).ihs = s.ihs := rfl
@[simp] theorem respondOk_ill (s : State) : (respondOk s).ill = s.ill := rfl
@[simp] theorem respondOk_tx (s : State) : (respondOk s).tx = s.tx := rfl
@[simp] theorem respondOk_port (s : State) : (respondOk s).port = s.port := rfl
@[simp] theorem respondOk_responses (s : State) : (respondOk s).responses = s.responses ++ [⟨0x00#8, 0#32⟩] := rfl

@[simp] theorem resetRegisters_crc (s : State) : (resetRegisters s).crc = 0#32 := rfl
@[simp] theorem resetRegisters_opc (s : State) : (resetRegisters s).opc = 0#32 := rfl
@[simp] theorem resetRegisters_pay (s : State) : (resetRegisters s).pay = [] := rfl
@[simp] theorem resetRegisters_povf (s : State) : (resetRegisters s).povf = false := rfl
@[simp] theorem resetRegisters_ptl (s : State) : (resetRegisters s).ptl = false := rfl
@[simp] theorem resetRegisters_ihs (s : State) : (resetRegisters s).ihs = false := rfl
@[simp] theorem resetRegisters_ill (s : State) : (resetRegisters s).ill = false := rfl
@[simp] theorem resetRegisters_tx (s : State) : (resetRegisters s).tx = s.tx := rfl
@[simp] theorem resetRegisters_port (s : State) : (resetRegisters s).port = s.port := rfl
@[simp] theorem resetRegisters_responses (s : State) : (resetRegisters s).responses = s.responses := rfl

@[simp] theorem hardwareReset_crc (s : State) : (hardwareReset s).crc = 0#32 := rfl
@[simp] theorem hardwareReset_opc (s : State) : (hardwareReset s).opc = 0#32 := rfl
@[simp] theorem hardwareReset_pay (s : State) : (hardwareReset s).pay = [] := rfl
@[simp] theorem hardwareReset_povf (s : State) : (hardwareReset s).povf = false := rfl
@[simp] theorem hardwareReset_ptl (s : State) : (hardwareReset s).ptl = false := rfl
@[simp] theorem hardwareReset_ihs (s : State) : (hardwareReset s).ihs = false := rfl
@[simp] theorem hardwareReset_ill (s : State) : (hardwareReset s).ill = false := rfl
@[simp] theorem hardwareReset_tx (s : State) : (hardwareReset s).tx = s.tx := rfl
@[simp] theorem hardwareReset_port (s : State) : (hardwareReset s).port = s.port := rfl
@[simp] theorem hardwareReset_responses (s : State) : (hardwareReset s).responses = s.responses := rfl

@[simp] theorem setFlag_crc (e : ErrorKind) (s : State) : (setFlag e s).crc = s.crc := by cases e <;> rfl
@[simp] theorem setFlag_opc (e : ErrorKind) (s : State) : (setFlag e s).opc = s.opc := by cases e <;> rfl
@[simp] theorem setFlag_pay (e : ErrorKind) (s : State) : (setFlag e s).pay = s.pay := by cases e <;> rfl
@[simp] theorem setFlag_povf (e : ErrorKind) (s : State) : (setFlag e s).povf = s.povf := by cases e <;> rfl
@[simp] theorem setFlag_payloadTooLarge_ptl (s : State) : (setFlag .payloadTooLarge s).ptl = true := rfl
@[simp] theorem setFlag_invalidHalfPageSize_ptl (s : State) : (setFlag .invalidHalfPageSize s).ptl = s.ptl := rfl
@[simp] theorem setFlag_illegalOperation_ptl (s : State) : (setFlag .illegalOperation s).ptl = s.ptl := rfl
@[simp] theorem setFlag_payloadTooLarge_ihs (s : State) : (setFlag .payloadTooLarge s).ihs = s.ihs := rfl
@[simp] theorem setFlag_invalidHalfPageSize_ihs (s : State) : (setFlag .invalidHalfPageSize s).ihs = true := rfl
@[simp] theorem setFlag_illegalOperation_ihs (s : State) : (setFlag .illegalOperation s).ihs = s.ihs := rfl
@[simp] theorem setFlag_payloadTooLarge_ill (s : State) : (setFlag .payloadTooLarge s).ill = s.ill := rfl
@[simp] theorem setFlag_invalidHalfPageSize_ill (s : State) : (setFlag .invalidHalfPageSize s).ill = s.ill := rfl
@[simp] theorem setFlag_illegalOperation_ill (s : State) : (setFlag .illegalOperation s).ill = true := rfl
@[simp] theorem setFlag_tx (e : ErrorKind) (s : State) : (setFlag e s).tx = s.tx := by cases e <;> rfl
@[simp] theorem setFlag_port (e : ErrorKind) (s : State) : (setFlag e s).port = s.port := by cases e <;> rfl
@[simp] theorem setFlag_responses (e : ErrorKind) (s : State) : (setFlag e s).responses = s.responses := by cases e <;> rfl

@[simp] theorem pushPay_crc (b : Byte) (s : State) : (pushPay b s).crc = s.crc := by unfold pushPay; split <;> rfl
@[simp] theorem pushPay_opc (b : Byte) (s : State) : (pushPay b s).opc = s.opc := by unfold pushPay; split <;> rfl
@[simp] theorem pushPay_ptl (b : Byte) (s : State) : (pushPay b s).ptl = s.ptl := by unfold pushPay; split <;> rfl
@[simp] theorem pushPay_ihs (b : Byte) (s : State) : (pushPay b s).ihs = s.ihs := by unfold pushPay; split <;> rfl
@[simp] theorem pushPay_ill (b : Byte) (s : State) : (pushPay b s).ill = s.ill := by unfold pushPay; split <;> rfl
@[simp] theorem pushPay_tx (b : Byte) (s : State) : (pushPay b s).tx = s.tx := by unfold pushPay; split <;> rfl
@[simp] theorem pushPay_port (b : Byte) (s : State) : (pushPay b s).port = s.port := by unfold pushPay; split <;> rfl
@[simp] theorem pushPay_responses (b : Byte) (s : State) : (pushPay b s).responses = s.responses := by unfold pushPay; split <;> rfl

/-- Below the capacity a pushed byte is appended (R102). -/
theorem pushPay_of_lt (b : Byte) (s : State) (h : s.pay.length < 64) : pushPay b s = { s with pay := s.pay ++ [b] } :=
  if_pos h

/-- At the capacity the byte is dropped and the overflow marked (R102, R13). -/
theorem pushPay_of_ge (b : Byte) (s : State) (h : 64 ≤ s.pay.length) : pushPay b s = { s with povf := true } :=
  if_neg (Nat.not_lt.mpr h)

/-- All that `raise` does (R133): a response with the error's code and data zero, and the error's flag. -/
theorem raise_eq (e : ErrorKind) (s : State) :
    raise e s = { setFlag e s with responses := s.responses ++ [⟨errorCode e, 0#32⟩] } := by
  cases e <;> rfl

/-- All that taking an event can do (R31): there is none, or the first one is gone from the port and nothing else
has changed. -/
theorem takeEvent_eq_some {s t : State} {e : PortEvent} (h : takeEvent s = some (e, t)) :
    s.port = e :: t.port ∧ t = { s with port := t.port } := by
  cases hp : s.port with
  | nil => simp [takeEvent, hp] at h
  | cons e' rest =>
    simp only [takeEvent, hp, Option.some.injEq, Prod.mk.injEq] at h
    obtain ⟨rfl, rfl⟩ := h
    exact ⟨rfl, rfl⟩

theorem takeEvent_nil {s : State} (h : s.port = []) : takeEvent s = none := by simp [takeEvent, h]

theorem takeEvent_cons {s : State} {e : PortEvent} {rest : List PortEvent} (h : s.port = e :: rest) :
    takeEvent s = some (e, { s with port := rest }) := by simp [takeEvent, h]

@[simp] theorem payCap_eq : Config.payCap = 64 := rfl

@[simp] theorem payloadMax_eq : Config.payloadMax = 60 := rfl

@[simp] theorem halfLen_eq : Config.halfLen = 64 := rfl

theorem le32_length (v : Word32) : (le32 v).length = 4 := rfl

theorem zeros_length (n : Nat) : (zeros n).length = n := List.length_replicate

end Sys2Proof.Machine
end

