-- ==== Sys2Proof/Laws/Exec.lean ====
section
/-! SUPPORT. What a step can do, said once for the operation port, and how sequences of operations compose. -/

namespace Sys2Proof.Machine

/-- Everything a step that answers a next state can have done (R31, R136, R150). -/
theorem step_next_cases {s t : State} (h : step s = .next t) :
    (s.port = [] ∧ t = s) ∨
    (∃ w rest i, s.port = .issue w :: rest ∧ decode w = .ok i ∧ exec i { s with port := rest } = .next t) ∨
    (∃ w rest, s.port = .issue w :: rest ∧ IllegalWord w ∧ t = raise .illegalOperation { s with port := rest }) ∨
    (∃ rest, s.port = .reset :: rest ∧ t = hardwareReset { s with port := rest }) := by
  cases hp : s.port with
  | nil =>
    rw [step, takeEvent_nil hp] at h
    exact .inl ⟨rfl, by cases h; rfl⟩
  | cons e rest =>
    rw [step, takeEvent_cons hp] at h
    cases e with
    | issue w =>
      cases hd : decode w with
      | ok i => simp only [hd] at h; exact .inr (.inl ⟨w, rest, i, rfl, hd, h⟩)
      | error x => simp only [hd] at h; cases h; exact .inr (.inr (.inl ⟨w, rest, rfl, ⟨x, hd⟩, rfl⟩))
    | reset => cases h; exact .inr (.inr (.inr ⟨rest, rfl, rfl⟩))
    | contention a b => cases h

/-- A list of operations in two parts: the second runs from where the first ends (R36). -/
theorem execAll_append {a b : List Instr} {s t : State} (h : execAll a s = .next t) :
    execAll (a ++ b) s = execAll b t := by
  induction a generalizing s with
  | nil => cases h; rfl
  | cons i a ih =>
    simp only [execAll] at h
    simp only [List.cons_append, execAll]
    cases he : exec i s with
    | next u => rw [he] at h; exact ih h
    | fault r => rw [he] at h; cases h
    | refused r => rw [he] at h; cases h

end Sys2Proof.Machine
end

