-- ==== Sys2Proof/Laws/PerInstr.lean ====
section
/-! SUPPORT. The family EncodeFields: for each operation, its word has the op code of its row, no reserved bit, its
operand as the immediate, and an immediate its format allows (R50, R51). -/

namespace Sys2Proof.Laws.EncodeFields

def Statement (i : Instr) : Prop :=
  i.wf = true ∧
  Machine.opField (encode i) = opCode i.mnemonic ∧
  Machine.rsvField (encode i) = 0#24 ∧
  Machine.immField (encode i) = immOf i ∧
  Machine.legalImm (Machine.formatOf i.mnemonic) (immOf i) = true

/-- The parts that hold by the packing alone, so that each operation has only its immediate left to show. -/
theorem of_legalImm {i : Instr} (h : Machine.legalImm (Machine.formatOf i.mnemonic) (immOf i) = true) : Statement i :=
  ⟨i.wf_eq_true, Machine.opField_packWord .., Machine.rsvField_packWord .., Machine.immField_packWord .., h⟩

theorem nop : Statement .nop := of_legalImm rfl
theorem rst : Statement .rst := of_legalImm rfl
theorem stat : Statement .stat := of_legalImm rfl
theorem crcInit : Statement .crcInit := of_legalImm rfl
theorem crcSeed (v : Word32) : Statement (.crcSeed v) := of_legalImm rfl
theorem crcByte (b : Byte) : Statement (.crcByte b) := of_legalImm (beq_iff_eq.mpr (Machine.immHigh_byteImm b))
theorem crcRead : Statement .crcRead := of_legalImm rfl
theorem frmClr : Statement .frmClr := of_legalImm rfl
theorem frmOpc (v : Word32) : Statement (.frmOpc v) := of_legalImm rfl
theorem frmPush (b : Byte) : Statement (.frmPush b) := of_legalImm (beq_iff_eq.mpr (Machine.immHigh_byteImm b))
theorem frmCmd : Statement .frmCmd := of_legalImm rfl
theorem frmHalf : Statement .frmHalf := of_legalImm rfl

end Sys2Proof.Laws.EncodeFields
end

