-- ==== Sys2Proof/Tests/Slice0.lean ====
section
/-! SUPPORT. Tests. Expected values are those of spec/95_test_vectors.md (V, W, F, P, section 5 and 6) or of the rule a
comment names. After them, for each statement with hypotheses, a witness that meets them. -/

namespace Sys2Proof.Tests

open Sys2Proof.Machine

/-! ## Helpers -/

def reset : State := State.reset

/-- `n` bytes 55, as in P5. -/
def fill (n : Nat) : List Byte := List.replicate n 0x55#8

/-- A state with `n` bytes in the buffer, the other registers at reset. -/
def holding (n : Nat) : State := { State.reset with pay := fill n }

/-- A state with the words of a list at the port. -/
def issuing (ws : List OpWord) : State := { State.reset with port := ws.map .issue }

def stateOf (o : Host.Outcome State Fault Refusal) : Option State :=
  match o with
  | .next t => some t
  | .fault _ => none
  | .refused _ => none

theorem exists_next_of_isSome {i : Instr} {s : State} (h : (stateOf (exec i s)).isSome = true) :
    ∃ t, exec i s = .next t := by
  cases he : exec i s with
  | next t => exact ⟨t, rfl⟩
  | fault r => cases r
  | refused r => simp [stateOf, he] at h

/-- The response an operation gives at a state. -/
def responseOf (i : Instr) (s : State) : Option Response := (stateOf (exec i s)).bind (fun t => t.responses.getLast?)

/-! ## Well-formedness: an ill-formed term for each check -/

theorem test_wf_refuses_operand_of_format_n : (SourceLine.mk .nop (some 0)).wf = false := by decide
theorem test_wf_refuses_missing_byte : (SourceLine.mk .crcByte none).wf = false := by decide
theorem test_wf_refuses_byte_256 : (SourceLine.mk .frmPush (some 256)).wf = false := by decide
theorem test_wf_refuses_missing_word : (SourceLine.mk .crcSeed none).wf = false := by decide
theorem test_wf_refuses_word_above_32_bits : (SourceLine.mk .frmOpc (some 4294967296)).wf = false := by decide
theorem test_wf_accepts_largest_operands :
    (SourceLine.mk .frmPush (some 255)).wf = true ∧ (SourceLine.mk .crcSeed (some 4294967295)).wf = true := by decide
theorem test_page_size_128_only : Config.pageSizeAdmitted 128 = true ∧ Config.pageSizeAdmitted 64 = false ∧
    Config.pageSizeAdmitted 256 = false ∧ Config.halfLen = 64 ∧ Config.payCap = 64 := by decide

/-! ## Decoding: words written out from R52 and section 5 -/

theorem test_decode_nop : decode 0x0000000000000000#64 = .ok .nop := by decide
theorem test_decode_rst : decode 0x0100000000000000#64 = .ok .rst := by decide
theorem test_decode_stat : decode 0x0200000000000000#64 = .ok .stat := by decide
theorem test_decode_crcInit : decode 0x1000000000000000#64 = .ok .crcInit := by decide
theorem test_decode_crcSeed : decode 0x11000000FFFFFFFF#64 = .ok (.crcSeed 0xFFFFFFFF#32) := by decide
theorem test_decode_crcByte : decode 0x12000000000000FF#64 = .ok (.crcByte 0xFF#8) := by decide
theorem test_decode_crcRead : decode 0x1300000000000000#64 = .ok .crcRead := by decide
theorem test_decode_frmClr : decode 0x2000000000000000#64 = .ok .frmClr := by decide
theorem test_decode_frmOpc : decode 0x21000000DEADBEEF#64 = .ok (.frmOpc 0xDEADBEEF#32) := by decide
theorem test_decode_frmPush : decode 0x2200000000000041#64 = .ok (.frmPush 0x41#8) := by decide
theorem test_decode_frmCmd : decode 0x2300000000000000#64 = .ok .frmCmd := by decide
theorem test_decode_frmHalf : decode 0x2400000000000000#64 = .ok .frmHalf := by decide

/-- The illegal words of section 5 with a must-be-zero bit set. -/
theorem test_decode_must_be_zero :
    [0x0000000000000001#64, 0x0000000100000000#64, 0x1000000000000001#64, 0x1100000100000000#64,
     0x1200000000000100#64, 0x2300000100000000#64].map decode = List.replicate 6 (.error .mustBeZero) := by decide

/-- The illegal words of section 5 with a reserved op code. -/
theorem test_decode_reserved :
    [0x0300000000000000#64, 0x1400000000000000#64, 0x2500000000000000#64, 0xFFFFFFFFFFFFFFFF#64].map decode =
      List.replicate 4 (.error .reservedOpCode) := by decide

theorem test_decodeTableWord : decodeTableWord 64 0x2200000000000041 = some (.frmPush 0x41#8) ∧
    decodeTableWord 64 0x1200000000000100 = none := by decide

/-- From reset the very next step runs the word (P1's second operation, from reset: CRC of 31). -/
theorem test_withFetchWord_runs_next :
    (stateOf (step (reset.withFetchWord 64 0x1200000000000031))).map (fun t => t.crc) = some 0x83DCEFB7#32 := by decide

/-! ## The CRC function -/

theorem test_crc_V1_to_V4 : crc32 [] 0#32 = 0x00000000#32 ∧ crc32 [0x00#8] 0#32 = 0xD202EF8D#32 ∧
    crc32 [0x01#8] 0#32 = 0xA505DF1B#32 ∧ crc32 [0xFF#8] 0#32 = 0xFF000000#32 := by decide

theorem test_crc_V8 :
    crc32 [0x01#8, 0x02#8, 0x03#8, 0x04#8, 0x05#8, 0x06#8, 0x07#8, 0x01#8] 0#32 = 0x46163061#32 := by decide +kernel

theorem test_crc_V9 :
    crc32 [0x31#8, 0x32#8, 0x33#8, 0x34#8, 0x35#8, 0x36#8, 0x37#8, 0x38#8, 0x39#8] 0#32 = 0xCBF43926#32 := by decide +kernel

theorem test_crc_V11 : crc32 [0xFF#8, 0xFF#8, 0xFF#8, 0xFF#8] 0#32 = 0xFFFFFFFF#32 := by decide +kernel

/-- W3, W4, W9 and W13: seeds are in the finalized domain. -/
theorem test_crc_seeds : crc32 [0x00#8] 0xFFFFFFFF#32 = 0xFFFFFFFF#32 ∧ crc32 [0x01#8] 0xFFFFFFFF#32 = 0x88F8CF69#32 ∧
    crc32 [0x61#8, 0x62#8, 0x63#8] 0xDEADBEEF#32 = 0x45BB8AE2#32 ∧
    crc32 [0x00#8, 0x00#8, 0x00#8, 0x00#8] 0xDEADBEEF#32 = 0x1A5A601F#32 := by decide +kernel

/-- Entries of section 3: rows 0, 1, 16, 31. -/
theorem test_crc_table : crcTable 0x03#8 = 0x990951BA#32 ∧ crcTable 0x08#8 = 0x0EDB8832#32 ∧
    crcTable 0x80#8 = 0xEDB88320#32 ∧ crcTable 0xFE#8 = 0x5A05DF1B#32 := by decide

/-- Section 2.1, the last line. -/
theorem test_table_form : tableUpd 0xFFFFFFFF#32 0x01#8 = 0x5AFA20E4#32 := by decide

/-! ## Operations, one step each -/

theorem test_crcByte_running_value :
    (stateOf (exec (.crcByte 0x35#8) { reset with crc := 0x9BE3E0A3#32 })).map (fun t => t.crc) = some 0xCBF53A1C#32 := by decide
theorem test_crcInit : (stateOf (exec .crcInit { reset with crc := 0xCBF43926#32 })).map (fun t => t.crc) = some 0#32 := by decide
theorem test_crcSeed : (stateOf (exec (.crcSeed 0x9BE3E0A3#32) reset)).map (fun t => t.crc) = some 0x9BE3E0A3#32 := by decide
theorem test_crcRead : responseOf .crcRead { reset with crc := 0xCBF43926#32 } = some ⟨0x00#8, 0xCBF43926#32⟩ := by decide

/-- Section 6: `CRC` = 0x46163061, `PLEN` = 12, `ILL` = 1. -/
theorem test_stat : responseOf .stat { holding 12 with crc := 0x46163061#32, ill := true } =
    some ⟨0x00#8, 0x0000040C#32⟩ := by decide
/-- Section 6: `PLEN` = 64, `POVF` = 1, `PTL` = 1, `IHS` = 1. -/
theorem test_stat_all_low_flags : responseOf .stat { holding 64 with povf := true, ptl := true, ihs := true } =
    some ⟨0x00#8, 0x000003C0#32⟩ := by decide
theorem test_rst : (stateOf (exec .rst { holding 12 with crc := 0x46163061#32, ill := true, tx := [fill 64] })).map
    (fun t => (t.crc, t.pay, t.ill, status t, t.tx.length)) = some (0#32, [], false, 0#32, 1) := by decide
theorem test_nop : (stateOf (exec .nop (holding 3))).map (fun t => (t.pay.length, t.responses)) =
    some (3, [⟨0x00#8, 0#32⟩]) := by decide

theorem test_frmClr : (stateOf (exec .frmClr (holding 61))).map (fun t => (t.pay, t.povf)) = some ([], false) := by decide
theorem test_frmOpc : (stateOf (exec (.frmOpc 0x00000002#32) reset)).map (fun t => t.opc) = some 0x00000002#32 := by decide
theorem test_frmPush_at_63 : (stateOf (exec (.frmPush 0x41#8) (holding 63))).map
    (fun t => (t.pay.length, t.pay.getLast?, t.povf)) = some (64, some 0x41#8, false) := by decide
theorem test_frmPush_at_64 : (stateOf (exec (.frmPush 0x41#8) (holding 64))).map
    (fun t => (t.pay.length, t.pay.getLast?, t.povf)) = some (64, some 0x55#8, true) := by decide

/-- F8's opcode bytes, one payload byte, and the padding. -/
theorem test_frmCmd_frame : (stateOf (exec .frmCmd { reset with opc := 0xA1B2C3D4#32, pay := [0x01#8] })).map
    (fun t => (t.tx, t.pay, t.opc)) =
    some ([[0xD4#8, 0xC3#8, 0xB2#8, 0xA1#8, 0x01#8] ++ List.replicate 59 0x00#8], [], 0xA1B2C3D4#32) := by decide
/-- P5, operation 64. -/
theorem test_frmCmd_61_bytes : (stateOf (exec .frmCmd (holding 61))).map
    (fun t => (t.responses, t.ptl, t.pay.length, t.tx)) = some ([⟨0x01#8, 0#32⟩], true, 61, []) := by decide
/-- P5, operation 133. -/
theorem test_frmHalf_64_bytes : (stateOf (exec .frmHalf (holding 64))).map
    (fun t => (t.responses, t.ihs, t.pay, t.tx)) = some ([⟨0x00#8, 0#32⟩], false, [], [fill 64]) := by decide
/-- P5, operation 130. -/
theorem test_frmHalf_63_bytes : (stateOf (exec .frmHalf (holding 63))).map
    (fun t => (t.responses, t.ihs, t.pay.length, t.tx)) = some ([⟨0x02#8, 0#32⟩], true, 63, []) := by decide

/-- P5, operation 135: `CRC` is not changed. -/
theorem test_illegal_word : (stateOf (step (issuing [0x1200000000000100#64]))).map
    (fun t => (t.responses, t.ill, t.crc, t.port)) = some ([⟨0x03#8, 0#32⟩], true, 0#32, []) := by decide

/-- R150: a reset between operations gives no response and keeps `TX`. -/
theorem test_hardware_reset : (stateOf (step { holding 5 with opc := 2#32, tx := [fill 64], port := [.reset] })).map
    (fun t => (t.opc, t.pay, t.tx.length, t.responses)) = some (0#32, [], 1, []) := by decide

/-! ## Default CMDTAB: the frames F1 to F7 -/

theorem test_frame_F1 : commandFrame defaultCmdTab.test.opcode defaultCmdTab.test.payload =
    [0x3C#8, 0x00#8, 0x00#8, 0x00#8, 0x54#8, 0x65#8, 0x73#8, 0x74#8, 0x20#8, 0x43#8, 0x6F#8, 0x6D#8, 0x6D#8, 0x61#8,
     0x6E#8, 0x64#8] ++ List.replicate 48 0x00#8 := by decide
theorem test_frame_F4 :
    commandFrame defaultCmdTab.startProgramming.opcode defaultCmdTab.startProgramming.payload =
    [0x02#8, 0x00#8, 0x00#8, 0x00#8, 0x53#8, 0x74#8, 0x61#8, 0x72#8, 0x74#8, 0x20#8, 0x50#8, 0x72#8, 0x6F#8, 0x67#8,
     0x72#8, 0x61#8, 0x6D#8, 0x6D#8, 0x69#8, 0x6E#8, 0x67#8] ++ List.replicate 43 0x00#8 := by decide
theorem test_frame_F5 :
    commandFrame defaultCmdTab.programPage (progPagePayload 0#32 0x92CED427#32 0xD84FDCB4#32) =
    [0x03#8, 0x00#8, 0x00#8, 0x00#8, 0x00#8, 0x00#8, 0x00#8, 0x00#8, 0x27#8, 0xD4#8, 0xCE#8, 0x92#8, 0xB4#8, 0xDC#8,
     0x4F#8, 0xD8#8] ++ List.replicate 48 0x00#8 := by decide
/-- R60's table: opcodes and payload lengths. -/
theorem test_default_cmdtab :
    [defaultCmdTab.test, defaultCmdTab.reset, defaultCmdTab.getLog, defaultCmdTab.startProgramming,
      defaultCmdTab.endProgramming, defaultCmdTab.jumpToApp].map (fun r => (r.opcode.toNat, r.payload.length)) =
    [(60, 12), (255, 6), (1, 8), (2, 18), (4, 16), (8, 12)] := by decide
/-- R66: "CMD.START expands to 21 operations". -/
theorem test_cmdStart_length : (expand defaultCmdTab .cmdStart).length = 21 := by decide

/-! ## Assembler lines and the transposition -/

/-- P1's second line, with a comment. -/
theorem test_assemble_crcByte : assembleLine "CRC.BYTE 0x31 ; one".toList = some 0x1200000000000031#64 := by decide
theorem test_assemble_frmOpc_decimal : assembleLine "FRM.OPC 60".toList = some 0x210000000000003C#64 := by decide
theorem test_assemble_crcSeed : assembleLine "CRC.SEED 0x9BE3E0A3".toList = some 0x110000009BE3E0A3#64 := by decide
theorem test_assemble_frmHalf : assembleLine "FRM.HALF".toList = some 0x2400000000000000#64 := by decide
theorem test_assemble_refuses : assembleLine "CRC.BYTE 256".toList = none ∧ assembleLine "NOP 0".toList = none ∧
    assembleLine "nop".toList = none ∧ assembleLine "FRM.PUSH".toList = none := by decide

/-- V13's first bytes. -/
theorem test_xpose4 : xpose4 [0x00#8, 0x01#8, 0x02#8, 0x03#8, 0x04#8, 0x05#8, 0x06#8, 0x07#8] =
    some [0x03#8, 0x02#8, 0x01#8, 0x00#8, 0x07#8, 0x06#8, 0x05#8, 0x04#8] := by decide
theorem test_xpose4_refuses : xpose4 [] = none ∧ xpose4 (fill 63) = none := by decide

/-! ## Witnesses: states and operands that meet all the hypotheses of a statement, one theorem per statement, with the
clauses at the boundaries of their ranges -/

/-- A state that meets the invariant, at the upper end of every bound: a full buffer, the overflow mark, a frame and
an error response in the histories, and a word at the port. -/
def brimming (w : OpWord) : State :=
  { holding 64 with povf := true, ptl := true, tx := [fill 64], responses := [⟨0x01#8, 0#32⟩], port := [.issue w] }

theorem test_brimming_meets_invariant : Inv (brimming 0#64) := by decide +kernel

theorem test_witness_EncodeOfDecodeIsTheWord : ∃ w i, decode w = .ok i :=
  ⟨0x2200000000000041#64, .frmPush 0x41#8, by decide⟩

theorem test_witness_WordIsLegalExactlyWhenARowMatches :
    ∃ w : OpWord, ∃ r ∈ opTable, ∃ r' ∈ opTable, w &&& r.mask = r.pattern ∧ w &&& r'.mask = r'.pattern :=
  ⟨0x12000000000000FF#64, ⟨0x1200000000000000#64, 0xFFFFFFFFFFFFFF00#64⟩, by decide,
    ⟨0x1200000000000000#64, 0xFFFFFFFFFFFFFF00#64⟩, by decide, by decide, by decide⟩

/-- No row matches. -/
theorem test_witness_illegal_no_row : ∀ r ∈ opTable, 0x0300000000000000#64 &&& r.mask ≠ r.pattern := by decide

/-- The reserved op codes next to listed ones, and the last. -/
theorem test_witness_illegal_reserved_op :
    [0x0300000000000000#64, 0x0F00000000000000#64, 0x1400000000000000#64, 0x2500000000000000#64,
      0xFF00000000000000#64].map (fun w => [0x00#8, 0x01#8, 0x02#8, 0x10#8, 0x11#8, 0x12#8, 0x13#8, 0x20#8, 0x21#8,
        0x22#8, 0x23#8, 0x24#8].contains (opField w)) = List.replicate 5 false := by decide

/-- Each kind of must-be-zero bit, at its lowest place. -/
theorem test_witness_illegal_must_be_zero :
    (opField 0x1100000100000000#64 = opCode .crcSeed ∧ rsvField 0x1100000100000000#64 ≠ 0x000000#24) ∧
    (opField 0x0000000000000001#64 = opCode .nop ∧ formatOf .nop = .noOperand ∧
      immField 0x0000000000000001#64 ≠ 0x00000000#32) ∧
    (opField 0x1200000000000100#64 = opCode .crcByte ∧ formatOf .crcByte = .byteOperand ∧
      (immField 0x1200000000000100#64).extractLsb' 8 24 ≠ 0x000000#24) := by decide

/-- An illegal word at the port. -/
theorem test_witness_illegal_at_port : (issuing [0x1200000000000100#64]).port = .issue 0x1200000000000100#64 :: [] := rfl

theorem test_witness_IllegalWord : IllegalWord 0x1200000000000100#64 := ⟨.mustBeZero, by decide⟩

theorem test_witness_nop_is_a_no_op : decode 0x0000000000000000#64 = .ok .nop ∧
    ∀ s : State, exec .nop s = .next { s with responses := s.responses ++ [⟨0x00#8, 0x00000000#32⟩] } :=
  ⟨by decide, fun _ => rfl⟩

theorem test_witness_StepRunsTheDecodedOperation : ∃ (s : State) (w : OpWord) (rest : List PortEvent) (i : Instr),
    s.port = .issue w :: rest ∧ decode w = .ok i ∧ i = .frmPush 0x41#8 :=
  ⟨issuing [0x2200000000000041#64, 0#64], 0x2200000000000041#64, [.issue 0#64], .frmPush 0x41#8,
    rfl, by decide, rfl⟩

theorem test_witness_NoEventLeavesTheStateAsItIs : (holding 3).port = [] := rfl

theorem test_witness_ConcurrentIssueIsRefused :
    ({ reset with port := [.contention 0#64 1#64] } : State).port = .contention 0#64 1#64 :: [] := rfl

theorem test_witness_StepsOverThePortAreTheOperationsInOrder :
    ({ reset with port := [.issue 0x1000000000000000#64, .issue 0x1200000000000031#64, .reset] } : State).port =
      [Instr.crcInit, Instr.crcByte 0x31#8].map (fun i => PortEvent.issue (encode i)) ++ [.reset] := by decide

theorem test_witness_reset_event : ({ holding 5 with port := [.reset] } : State).port = .reset :: [] := rfl

/-- A step from a state at the bounds of the invariant, by a push into the full buffer. -/
theorem test_witness_StepKeepsTheStateInvariant :
    Inv (brimming 0x2200000000000041#64) ∧
    (stateOf (step (brimming 0x2200000000000041#64))).isSome = true := ⟨by decide +kernel, by decide +kernel⟩

theorem test_witness_NopOnlyResponds :
    opField 0x0000000000000001#64 = 0x00#8 ∧ 0x0000000000000001#64 ≠ 0x0000000000000000#64 := by decide

theorem test_witness_exec_answers_next : ∃ t, exec .rst (holding 12) = .next t := ⟨_, rfl⟩

theorem test_witness_RstRestoresEveryRegister :
    Instr.frmHalf ≠ .rst ∧ ∃ t, exec .frmHalf { holding 64 with ill := true } = .next t :=
  ⟨by decide, exists_next_of_isSome (by decide +kernel)⟩

theorem test_witness_StatRespondsTheStatusWord : Inv (brimming 0#64) ∧ ∃ t, exec .stat (brimming 0#64) = .next t :=
  ⟨test_brimming_meets_invariant, _, rfl⟩

theorem test_witness_StatusWordLayout : Inv (brimming 0#64) ∧ 11 ≤ 11 ∧ (status (brimming 0#64)).getLsbD 7 = true :=
  ⟨test_brimming_meets_invariant, Nat.le_refl 11, by decide +kernel⟩

theorem test_witness_MessageDifferenceLaw : [0x61#8, 0x62#8].length = [0x00#8, 0xFF#8].length := rfl

theorem test_witness_CrcInitWritesTheDefaultSeed :
    opField 0x1000000000000001#64 = 0x10#8 ∧ 0x1000000000000001#64 ≠ 0x1000000000000000#64 := by decide

theorem test_witness_CrcByteFeedsOneByte :
    opField 0x1200000000000100#64 = 0x12#8 ∧ (immField 0x1200000000000100#64).extractLsb' 8 24 ≠ 0x000000#24 ∧
    ({ reset with crc := 0xFFFFFFFF#32 } : State).crc = 0xFFFFFFFF#32 := by decide

theorem test_witness_OperationSequenceComputesTheChecksum :
    (∀ i ∈ [Instr.crcByte 0x31#8, .stat, .frmPush 0x41#8, .crcRead, .frmCmd, .nop, .crcByte 0x32#8],
      keepsChecksumGoing i = true) ∧
    fedBytes [Instr.crcByte 0x31#8, .stat, .frmPush 0x41#8, .crcRead, .frmCmd, .nop, .crcByte 0x32#8] =
      [0x31#8, 0x32#8] := by decide

theorem test_witness_FrmClrEmptiesTheBuffer : ∃ t, exec .frmClr (holding 61) = .next t := ⟨_, rfl⟩

theorem test_witness_FrmOpcWritesTheWireOpcode : (∀ v, Instr.frmCmd ≠ .frmOpc v) ∧ Instr.frmCmd ≠ .rst ∧
    ∃ t, exec .frmCmd (holding 60) = .next t :=
  ⟨by simp, by decide, exists_next_of_isSome (by decide +kernel)⟩

theorem test_witness_FrmPushAppendsOrMarksOverflow :
    opField 0x2200000000000100#64 = 0x22#8 ∧ (immField 0x2200000000000100#64).extractLsb' 8 24 ≠ 0x000000#24 ∧
    (holding 63).pay.length < 64 ∧ ¬ (holding 64).pay.length < 64 := by decide

/-- 60 bytes fit; 61 do not; an overflowed buffer does not. -/
theorem test_witness_FrmCmdEmitsTheCommandFrameOrFails :
    ((holding 60).povf = false ∧ (holding 60).pay.length ≤ 60) ∧ 60 < (holding 61).pay.length ∧
    (brimming 0#64).povf = true := by decide

/-- 64 bytes pass; 63 do not; 64 with the overflow mark do not. -/
theorem test_witness_FrmHalfEmitsTheHalfPageOrFails :
    ((holding 64).povf = false ∧ (holding 64).pay.length = 64) ∧ (holding 63).pay.length ≠ 64 ∧
    (brimming 0#64).povf = true := by decide

/-- A full payload with its last byte, an empty payload with all its padding, one byte of padding. -/
theorem test_witness_CommandFrameLayout :
    ((fill 60).length ≤ 60 ∧ 59 < (fill 60).length) ∧ ((fill 0).length ≤ 0 ∧ 0 < 60) ∧
    ((fill 59).length ≤ 59 ∧ 59 < 60) := by decide

theorem test_witness_TrailingZerosGiveTheSameFrame : (fill 12).length + 48 ≤ 60 := by decide

/-- Operations between FRM.CLR and the send: 60, 61, 63 and 64 pushes, and others among them. -/
theorem test_witness_payload_sequences :
    (∀ n ∈ [60, 61, 63, 64], ∀ i ∈ [Instr.frmOpc 2#32, .stat, .crcByte 0x31#8] ++ (fill n).map .frmPush,
      keepsPayloadGrowing i = true) ∧
    (∀ n ∈ [60, 61, 63, 64],
      (pushedBytes ([Instr.frmOpc 2#32, .stat, .crcByte 0x31#8] ++ (fill n).map .frmPush)).length = n) := by
  decide +kernel

theorem test_witness_TwoHalfPagesCarryThePage : (fill 128).length = 128 := List.length_replicate

theorem test_witness_FrameOfReadOnlyOperations :
    ∃ t, Instr.stat ∈ [Instr.nop, Instr.stat, Instr.crcRead] ∧ exec .stat (holding 3) = .next t :=
  ⟨_, by decide, rfl⟩

theorem test_witness_FrameOfCrcWriters : ∃ t, exec (.crcByte 0x31#8) (holding 3) = .next t := ⟨_, rfl⟩

/-- Each operation of the statement answers a next state; the push with a byte before it, the sends with a frame
before them. -/
theorem test_witness_FrameOfFrameOperationsAndRst :
    (∀ i ∈ [Instr.frmClr, .frmOpc 2#32, .frmPush 0x41#8, .frmCmd, .frmHalf, .rst],
      (stateOf (exec i { holding 60 with tx := [fill 64] })).isSome = true) ∧
    59 < (holding 60).pay.length ∧ (holding 60).pay.length < 64 ∧ 0 < [fill 64].length := by decide +kernel

theorem test_witness_response_of_an_operation : ∃ t, exec .crcRead (holding 3) = .next t ∧
    t.responses = (holding 3).responses ++ [⟨0x00#8, 0#32⟩] := ⟨_, rfl, rfl⟩

theorem test_witness_EveryOperationGivesExactlyOneResponse :
    IllegalWord 0x1200000000000100#64 ∧
    (stateOf (step (issuing [0x1200000000000100#64]))).isSome = true := ⟨⟨.mustBeZero, by decide⟩, by decide⟩

/-- Both errors of a legal operation and the success beside them. -/
theorem test_witness_ErrorCodesAndTheirCauses :
    responseOf .frmCmd (holding 60) = some ⟨0x00#8, 0#32⟩ ∧ responseOf .frmCmd (holding 61) = some ⟨0x01#8, 0#32⟩ ∧
    responseOf .frmHalf (holding 64) = some ⟨0x00#8, 0#32⟩ ∧
    responseOf .frmHalf (holding 63) = some ⟨0x02#8, 0#32⟩ := by decide +kernel

/-- A failing FRM.CMD at the port: its step, its response, a code that is not OK. -/
theorem test_witness_FailingOperationChangesOnlyItsFlag :
    (stateOf (step { holding 61 with port := [.issue 0x2300000000000000#64] })).map (fun t => t.responses) =
      some [⟨0x01#8, 0#32⟩] := by decide +kernel

/-- A word that is not RST, RST, and a word that is not STAT, each at the port. -/
theorem test_witness_StickyFlagsAreSetByErrorsAndReadByStatOnly :
    (decode 0x2300000000000000#64 = .ok .frmCmd ∧
      (stateOf (step { holding 61 with port := [.issue 0x2300000000000000#64] })).isSome = true) ∧
    (decode 0x0100000000000000#64 = .ok .rst ∧ (stateOf (step (issuing [0x0100000000000000#64]))).isSome = true) ∧
    (stateOf (step { holding 5 with ptl := true, port := [.reset] })).isSome = true := by decide +kernel

theorem test_witness_TxGrowsByWholeFramesOnly :
    (stateOf (step { holding 64 with port := [.issue 0x2400000000000000#64] })).map (fun t => t.tx) =
      some [fill 64] := by decide +kernel

/-- Two states with one `CRC` and different buffers, two with one buffer and different `CRC`. -/
theorem test_witness_TheTwoUnitsAreIndependent :
    ((holding 3).crc = (holding 4).crc ∧ holding 3 ≠ holding 4 ∧ (holding 3).responses = (holding 4).responses) ∧
    (frameView (holding 3) = frameView { holding 3 with crc := 1#32 }) ∧
    (∃ t₁ t₂, exec .crcRead (holding 3) = .next t₁ ∧ exec .crcRead (holding 4) = .next t₂) ∧
    (∃ t, exec .frmCmd (holding 3) = .next t) ∧ (∃ t, exec .frmCmd { holding 3 with crc := 1#32 } = .next t) :=
  ⟨by decide, by decide, ⟨_, _, rfl, rfl⟩, exists_next_of_isSome (by decide +kernel),
    exists_next_of_isSome (by decide +kernel)⟩

theorem test_witness_RepeatingAFailedSendFailsAgain :
    (stateOf (exec .frmHalf (holding 63))).map (fun t => t.responses) = some ((holding 63).responses ++ [⟨0x02#8, 0#32⟩]) := by
  decide +kernel

theorem test_witness_PseudoOperationsRealiseTheFunctions : (fill 60).length ≤ 60 ∧ (fill 64).length = 64 := by decide

theorem test_witness_AssemblerLinesEncodeTheirOperation :
    (SourceLine.mk .crcByte (some 255)).wf = true ∧ (SourceLine.mk .crcByte (some 256)).wf = false := by decide

/-- A half-page with the bytes of its first and last group; the empty sequence; 63 bytes. -/
theorem test_witness_Xpose4ReversesEachGroupOfFour :
    (0 < (fill 64).length ∧ (fill 64).length % 4 = 0 ∧ 4 * 0 + 3 < (fill 64).length ∧ 4 * 15 + 3 < (fill 64).length) ∧
    (fill 0).length = 0 ∧ (fill 63).length % 4 ≠ 0 := by decide

end Sys2Proof.Tests
end

/-! The proofs of the family 10_state.md: the reset values (R20) and the sticky flags (R15). -/

namespace Sys2Proof.Machine

/-! ## The reset values -/

/-- An empty buffer and no flag: `STATUS` is 0 (R17, R20). -/
theorem status_eq_zero {s : State} (hpay : s.pay = []) (hpovf : s.povf = false) (hptl : s.ptl = false)
    (hihs : s.ihs = false) (hill : s.ill = false) : status s = 0x00000000#32 := by
  rw [status, plen, hpay, hpovf, hptl, hihs, hill]
  rfl

/-- Settles O10: RST's next state is `respondOk (resetRegisters s)`, whose fields the laws of the state give. -/
theorem resetValuesOfEveryRegister : Obligations.ResetValuesOfEveryRegister := by
  refine ⟨rfl, rfl, rfl, rfl, rfl, rfl, rfl, rfl, status_eq_zero rfl rfl rfl rfl rfl, rfl, fun s => ?_⟩
  exact ⟨respondOk (resetRegisters s), rfl, rfl, rfl, rfl, rfl, rfl, rfl, rfl, rfl,
    status_eq_zero rfl rfl rfl rfl rfl, rfl⟩

/-! ## What a step does with the event at the port -/

section
variable {s : State} {w : OpWord} {rest : List PortEvent}

/-- A legal word at the port runs its operation (R31, R138). -/
theorem step_of_decode_ok {i : Instr} (hp : s.port = .issue w :: rest) (hd : decode w = .ok i) :
    step s = exec i { s with port := rest } := by
  simp only [step, takeEvent_cons hp, hd]

/-- An illegal word at the port raises `IllegalOperation` (R136). -/
theorem step_of_decode_error {e : Illegal} (hp : s.port = .issue w :: rest) (hd : decode w = .error e) :
    step s = .next (raise .illegalOperation { s with port := rest }) := by
  simp only [step, takeEvent_cons hp, hd, execIllegal]

/-- A hardware reset at the port (R150). -/
theorem step_of_reset (hp : s.port = .reset :: rest) :
    step s = .next (hardwareReset { s with port := rest }) := by
  simp only [step, takeEvent_cons hp]

end

/-! ## The two paths of FRM.CMD and FRM.HALF -/

theorem execFrmCmd_of_fail {s : State} (h : s.povf = true ∨ 60 < s.pay.length) :
    execFrmCmd s = .next (raise .payloadTooLarge s) := if_pos h

theorem execFrmCmd_of_ok {s : State} (h : ¬ (s.povf = true ∨ 60 < s.pay.length)) :
    execFrmCmd s = .next (respondOk (emptyPay (emitFrame (commandFrame s.opc s.pay) s))) := if_neg h

theorem execFrmHalf_of_fail {s : State} (h : s.povf = true ∨ s.pay.length ≠ 64) :
    execFrmHalf s = .next (raise .invalidHalfPageSize s) := if_pos h

theorem execFrmHalf_of_ok {s : State} (h : ¬ (s.povf = true ∨ s.pay.length ≠ 64)) :
    execFrmHalf s = .next (respondOk (emptyPay (emitFrame (halfPageFrame s.pay) s))) := if_neg h

/-! ## A flag is set by the error that the response reports -/

/-- `t` follows `s` with one more response, and each flag is the flag before or the error that this response reports
(R15, R130). -/
def FlagsFollowResponse (s t : State) : Prop :=
  ∃ r, t.responses = s.responses ++ [r] ∧ t.ptl = (s.ptl || r.code == 0x01#8) ∧
    t.ihs = (s.ihs || r.code == 0x02#8) ∧ t.ill = (s.ill || r.code == 0x03#8)

theorem flagsFollowResponse_raise (e : ErrorKind) (s : State) : FlagsFollowResponse s (raise e s) := by
  refine ⟨⟨errorCode e, 0#32⟩, by rw [raise_eq], ?_⟩
  cases e <;> simp [raise, errorCode]

/-- An OK response reports no error, so after an update that keeps the flags it leaves them as they were. -/
theorem flagsFollowResponse_respond_ok {s u : State} (d : Word32) (hr : u.responses = s.responses)
    (hptl : u.ptl = s.ptl) (hihs : u.ihs = s.ihs) (hill : u.ill = s.ill) :
    FlagsFollowResponse s (respond okCode d u) :=
  ⟨⟨okCode, d⟩, by rw [respond_responses, hr], by simp [hptl, okCode], by simp [hihs, okCode],
    by simp [hill, okCode]⟩

theorem exec_flagsFollowResponse {i : Instr} {s t : State} (hi : i ≠ .rst) (h : exec i s = .next t) :
    FlagsFollowResponse s t := by
  cases i with
  | rst => exact absurd rfl hi
  | frmPush b =>
    cases h
    exact flagsFollowResponse_respond_ok _ (pushPay_responses b s) (pushPay_ptl b s) (pushPay_ihs b s) (pushPay_ill b s)
  | frmCmd =>
    by_cases hc : s.povf = true ∨ 60 < s.pay.length
    · cases (execFrmCmd_of_fail hc).symm.trans h
      exact flagsFollowResponse_raise _ s
    · cases (execFrmCmd_of_ok hc).symm.trans h
      exact flagsFollowResponse_respond_ok _ rfl rfl rfl rfl
  | frmHalf =>
    by_cases hc : s.povf = true ∨ s.pay.length ≠ 64
    · cases (execFrmHalf_of_fail hc).symm.trans h
      exact flagsFollowResponse_raise _ s
    · cases (execFrmHalf_of_ok hc).symm.trans h
      exact flagsFollowResponse_respond_ok _ rfl rfl rfl rfl
  | nop | stat | crcInit | crcSeed | crcByte | crcRead | frmClr | frmOpc =>
    cases h
    exact flagsFollowResponse_respond_ok _ rfl rfl rfl rfl

theorem step_flagsFollowResponse {s t : State} {w : OpWord} {rest : List PortEvent} (hp : s.port = .issue w :: rest)
    (hw : decode w ≠ .ok .rst) (h : step s = .next t) : FlagsFollowResponse s t := by
  cases hd : decode w with
  | ok i =>
    rw [step_of_decode_ok hp hd] at h
    exact exec_flagsFollowResponse (s := { s with port := rest }) (fun hi => hw (hi ▸ hd)) h
  | error e =>
    cases (step_of_decode_error hp hd).symm.trans h
    exact flagsFollowResponse_raise _ _

/-! ## No operation but STAT reads a flag -/

/-- The state with other flags. -/
def withFlags (ptl ihs ill : Bool) (s : State) : State := { s with ptl := ptl, ihs := ihs, ill := ill }

theorem pushPay_withFlags (p h l : Bool) (b : Byte) (s : State) :
    pushPay b (withFlags p h l s) = withFlags p h l (pushPay b s) := by
  rcases Nat.lt_or_ge s.pay.length 64 with hlt | hge
  · rw [pushPay_of_lt b s hlt, pushPay_of_lt b (withFlags p h l s) hlt]; rfl
  · rw [pushPay_of_ge b s hge, pushPay_of_ge b (withFlags p h l s) hge]; rfl

/-- Raising sets the one flag from whatever the flags were, and answers the same. -/
theorem raise_withFlags (e : ErrorKind) (p h l : Bool) (s : State) :
    ∃ p' h' l', raise e (withFlags p h l s) = withFlags p' h' l' (raise e s) := by
  cases e with
  | payloadTooLarge => exact ⟨true, h, l, rfl⟩
  | invalidHalfPageSize => exact ⟨p, true, l, rfl⟩
  | illegalOperation => exact ⟨p, h, true, rfl⟩

/-- Noninterference (R15): other flags before an operation make no difference after it but in the flags. -/
theorem exec_withFlags {i : Instr} {s t : State} (hi : i ≠ .stat) (hx : exec i s = .next t) (p h l : Bool) :
    ∃ p' h' l', exec i (withFlags p h l s) = .next (withFlags p' h' l' t) := by
  cases i with
  | stat => exact absurd rfl hi
  | rst =>
    cases hx
    exact ⟨false, false, false, rfl⟩
  | frmPush b =>
    cases hx
    exact ⟨p, h, l, congrArg (Host.Outcome.next ∘ respondOk) (pushPay_withFlags p h l b s)⟩
  | frmCmd =>
    by_cases hc : s.povf = true ∨ 60 < s.pay.length
    · cases (execFrmCmd_of_fail hc).symm.trans hx
      obtain ⟨p', h', l', hr⟩ := raise_withFlags .payloadTooLarge p h l s
      exact ⟨p', h', l', (execFrmCmd_of_fail (s := withFlags p h l s) hc).trans (congrArg _ hr)⟩
    · cases (execFrmCmd_of_ok hc).symm.trans hx
      exact ⟨p, h, l, execFrmCmd_of_ok (s := withFlags p h l s) hc⟩
  | frmHalf =>
    by_cases hc : s.povf = true ∨ s.pay.length ≠ 64
    · cases (execFrmHalf_of_fail hc).symm.trans hx
      obtain ⟨p', h', l', hr⟩ := raise_withFlags .invalidHalfPageSize p h l s
      exact ⟨p', h', l', (execFrmHalf_of_fail (s := withFlags p h l s) hc).trans (congrArg _ hr)⟩
    · cases (execFrmHalf_of_ok hc).symm.trans hx
      exact ⟨p, h, l, execFrmHalf_of_ok (s := withFlags p h l s) hc⟩
  | nop | crcInit | crcSeed | crcByte | crcRead | frmClr | frmOpc =>
    cases hx
    exact ⟨p, h, l, rfl⟩

theorem step_withFlags {s t : State} {w : OpWord} {rest : List PortEvent} (hp : s.port = .issue w :: rest)
    (hw : decode w ≠ .ok .stat) (hx : step s = .next t) (p h l : Bool) :
    ∃ p' h' l', step (withFlags p h l s) = .next (withFlags p' h' l' t) := by
  have hp' : (withFlags p h l s).port = .issue w :: rest := hp
  cases hd : decode w with
  | ok i =>
    rw [step_of_decode_ok hp' hd]
    exact exec_withFlags (fun hi => hw (hi ▸ hd)) ((step_of_decode_ok hp hd).symm.trans hx) p h l
  | error e =>
    cases (step_of_decode_error hp hd).symm.trans hx
    obtain ⟨p', h', l', hr⟩ := raise_withFlags .illegalOperation p h l { s with port := rest }
    exact ⟨p', h', l', (step_of_decode_error hp' hd).trans (congrArg _ hr)⟩

/-- Settles O50: the flags follow the response of every word but RST's, RST and a hardware reset end in
`resetRegisters`, and changing the flags beforehand commutes with every word but STAT's. -/
theorem stickyFlagsAreSetByErrorsAndReadByStatOnly : Obligations.StickyFlagsAreSetByErrorsAndReadByStatOnly := by
  refine ⟨?errors, ?rst, ?reset, ?reads⟩
  case errors =>
    intro s t w rest r hp hw hx hr
    obtain ⟨r', hr', hflags⟩ := step_flagsFollowResponse hp hw hx
    obtain rfl : r = r' := by simpa using hr.symm.trans hr'
    exact hflags
  case rst =>
    intro s t w rest hp hd hx
    cases (step_of_decode_ok hp hd).symm.trans hx
    exact ⟨rfl, rfl, rfl⟩
  case reset =>
    intro s t rest hp hx
    cases (step_of_reset hp).symm.trans hx
    exact ⟨rfl, rfl, rfl⟩
  case reads =>
    intro s t w rest p h l hp hw hx
    exact step_withFlags hp hw hx p h l

end Sys2Proof.Machine

/-! The proof of the family 20_memory.md: the response port (R32). -/

namespace Sys2Proof.Machine

/-! ## An operation is an update that does not see the history, and then one response -/

/-- The state with another history of responses. -/
def withResponses (rs : List Response) (s : State) : State := { s with responses := rs }

theorem pushPay_withResponses (rs : List Response) (b : Byte) (s : State) :
    pushPay b (withResponses rs s) = withResponses rs (pushPay b s) := by
  rcases Nat.lt_or_ge s.pay.length 64 with hlt | hge
  · rw [pushPay_of_lt b s hlt, pushPay_of_lt b (withResponses rs s) hlt]; rfl
  · rw [pushPay_of_ge b s hge, pushPay_of_ge b (withResponses rs s) hge]; rfl

theorem raise_withResponses (rs : List Response) (e : ErrorKind) (s : State) :
    raise e (withResponses rs s) = respond (errorCode e) 0#32 (withResponses rs (setFlag e s)) := by
  cases e <;> rfl

/-- The data of a success (R32). -/
def successData (s : State) : Instr → Word32
  | .crcRead => s.crc
  | .stat => status s
  | .nop | .rst | .crcInit | .crcSeed _ | .crcByte _ | .frmClr | .frmOpc _ | .frmPush _ | .frmCmd | .frmHalf => 0#32

/-- Whatever the history is, operation `i` at `s` makes the state `u` and then gives the response `r`, whose data are
those of R32. -/
def RespondsAfter (i : Instr) (s u : State) (r : Response) : Prop :=
  (r.code ≠ 0x00#8 → r.data = 0#32) ∧ (r.code = 0x00#8 → r.data = successData s i) ∧
    ∀ rs, exec i (withResponses rs s) = .next (respond r.code r.data (withResponses rs u))

section
variable {i : Instr} {s : State}

theorem respondsAfter_of_ok {u : State}
    (h : ∀ rs, exec i (withResponses rs s) = .next (respond okCode (successData s i) (withResponses rs u))) :
    RespondsAfter i s u ⟨okCode, successData s i⟩ :=
  ⟨fun hc => absurd rfl hc, fun _ => rfl, h⟩

theorem errorCode_ne_ok (e : ErrorKind) : errorCode e ≠ 0x00#8 := by cases e <;> decide

theorem respondsAfter_of_raise {e : ErrorKind}
    (h : ∀ rs, exec i (withResponses rs s) = .next (raise e (withResponses rs s))) :
    RespondsAfter i s (setFlag e s) ⟨errorCode e, 0#32⟩ :=
  ⟨fun _ => rfl, fun hc => absurd hc (errorCode_ne_ok e), fun rs => by rw [h rs, raise_withResponses]⟩

end

/-- R32: every operation ends in exactly one response. -/
theorem exec_respondsAfter (i : Instr) (s : State) : ∃ u r, RespondsAfter i s u r := by
  cases i with
  | frmPush b =>
    exact ⟨_, _, respondsAfter_of_ok fun rs =>
      congrArg (Host.Outcome.next ∘ respondOk) (pushPay_withResponses rs b s)⟩
  | frmCmd =>
    by_cases hc : s.povf = true ∨ 60 < s.pay.length
    · exact ⟨_, _, respondsAfter_of_raise fun rs => execFrmCmd_of_fail (s := withResponses rs s) hc⟩
    · exact ⟨emptyPay (emitFrame (commandFrame s.opc s.pay) s), _,
        respondsAfter_of_ok fun rs => execFrmCmd_of_ok (s := withResponses rs s) hc⟩
  | frmHalf =>
    by_cases hc : s.povf = true ∨ s.pay.length ≠ 64
    · exact ⟨_, _, respondsAfter_of_raise fun rs => execFrmHalf_of_fail (s := withResponses rs s) hc⟩
    · exact ⟨emptyPay (emitFrame (halfPageFrame s.pay) s), _,
        respondsAfter_of_ok fun rs => execFrmHalf_of_ok (s := withResponses rs s) hc⟩
  | rst => exact ⟨resetRegisters s, _, respondsAfter_of_ok fun _ => rfl⟩
  | crcInit => exact ⟨writeCrc Config.defaultSeed s, _, respondsAfter_of_ok fun _ => rfl⟩
  | crcSeed v => exact ⟨writeCrc v s, _, respondsAfter_of_ok fun _ => rfl⟩
  | crcByte b => exact ⟨writeCrc (crcUpd s.crc b) s, _, respondsAfter_of_ok fun _ => rfl⟩
  | frmClr => exact ⟨emptyPay s, _, respondsAfter_of_ok fun _ => rfl⟩
  | frmOpc v => exact ⟨writeOpc v s, _, respondsAfter_of_ok fun _ => rfl⟩
  | nop | stat | crcRead => exact ⟨s, _, respondsAfter_of_ok fun _ => rfl⟩

/-- The next state of an operation, by the update and the response it is made of. -/
theorem RespondsAfter.eq_of_next {i : Instr} {s t u : State} {r : Response} (hr : RespondsAfter i s u r)
    (h : exec i s = .next t) : t = respond r.code r.data (withResponses s.responses u) := by
  obtain ⟨-, -, hx⟩ := hr
  exact Host.Outcome.next.inj (h.symm.trans (hx s.responses))

/-- Settles O46: an operation is an update that the history does not enter, then one response with R32's data; an
illegal word is one `raise`. -/
theorem everyOperationGivesExactlyOneResponse : Obligations.EveryOperationGivesExactlyOneResponse := by
  refine ⟨?data, ?illegal, ?history⟩
  case data =>
    intro i s t h
    obtain ⟨u, r, hr⟩ := exec_respondsAfter i s
    obtain rfl := hr.eq_of_next h
    obtain ⟨herr, hok, -⟩ := hr
    exact ⟨r, rfl, herr, hok⟩
  case illegal =>
    rintro s t w rest hp ⟨e, hd⟩ h
    cases (step_of_decode_error hp hd).symm.trans h
    exact ⟨⟨errorCode .illegalOperation, 0#32⟩, by rw [raise_eq], rfl, rfl⟩
  case history =>
    intro i s t r rs h hlast
    obtain ⟨u, r', hr⟩ := exec_respondsAfter i s
    obtain rfl := hr.eq_of_next h
    obtain rfl : r' = r := by simpa [withResponses] using hlast
    obtain ⟨-, -, hx⟩ := hr
    exact hx rs

end Sys2Proof.Machine

/-! The proofs of the family 30_encoding.md: the table of match and mask (R51, R52), illegal words (R53, R136) and the
command frame (R54). -/

namespace Sys2Proof.Machine

/-! ## What makes a word legal -/

theorem opCode_injective : Function.Injective opCode := fun m m' h =>
  Option.some.inj ((mnemonicOf_opCode m).symm.trans (h ▸ mnemonicOf_opCode m'))

theorem instrOf_mnemonic (m : Mnemonic) (imm : Word32) : (instrOf m imm).mnemonic = m := by
  cases m <;> rfl

/-- The fields of a word that an operation of row `m` may have (R50, R51). -/
def FieldsLegal (m : Mnemonic) (w : OpWord) : Prop :=
  opField w = opCode m ∧ rsvField w = 0#24 ∧ legalImm (formatOf m) (immField w) = true

/-- The fields of a legal word are those of the row of its operation. -/
theorem fieldsLegal_of_decode_eq_ok {w : OpWord} {i : Instr} (h : decode w = .ok i) : FieldsLegal i.mnemonic w := by
  obtain ⟨m, hm, hrsv, himm, rfl⟩ := (decode_eq_ok_iff w i).mp h
  rw [instrOf_mnemonic]
  exact ⟨(opCode_of_mnemonicOf hm).symm, hrsv, himm⟩

theorem exists_decode_eq_ok_iff (w : OpWord) : (∃ i, decode w = .ok i) ↔ ∃ m, FieldsLegal m w := by
  constructor
  · rintro ⟨i, h⟩
    exact ⟨i.mnemonic, fieldsLegal_of_decode_eq_ok h⟩
  · rintro ⟨m, hop, hrsv, himm⟩
    exact ⟨_, (decode_eq_ok_iff w _).mpr ⟨m, hop ▸ mnemonicOf_opCode m, hrsv, himm, rfl⟩⟩

theorem illegalWord_iff (w : OpWord) : IllegalWord w ↔ ∀ m, ¬ FieldsLegal m w := by
  rw [← not_exists, ← exists_decode_eq_ok_iff, IllegalWord]
  cases decode w <;> simp

/-! ## The rows of the table -/

/-- The bits of the immediate that a format does not use (R50). -/
def unusedImm : Format → Word32
  | .noOperand => BitVec.allOnes 32
  | .byteOperand => BitVec.allOnes 24 ++ 0#8
  | .wordOperand => 0#32

/-- The row of a mnemonic: its op code with every other bit zero, under a mask of all the bits it does not use for an
operand (R51). -/
def rowOf (m : Mnemonic) : TableRow where
  pattern := packWord (opCode m) 0#24 0#32
  mask := packWord (BitVec.allOnes 8) (BitVec.allOnes 24) (unusedImm (formatOf m))

theorem opTable_eq_map_rowOf : opTable = Mnemonic.all.map rowOf := by decide

theorem mem_opTable_iff (r : TableRow) : r ∈ opTable ↔ ∃ m, rowOf m = r := by
  have hall : ∀ m, m ∈ Mnemonic.all := fun m => by cases m <;> decide
  simp [opTable_eq_map_rowOf, hall]

theorem packWord_and_packWord (op op' : Byte) (rsv rsv' : BitVec 24) (imm imm' : Word32) :
    packWord op rsv imm &&& packWord op' rsv' imm' = packWord (op &&& op') (rsv &&& rsv') (imm &&& imm') :=
  BitVec.and_append.trans (congrArg (· ++ (imm &&& imm')) BitVec.and_append)

theorem packWord_eq_iff (w : OpWord) (op : Byte) (rsv : BitVec 24) (imm : Word32) :
    w = packWord op rsv imm ↔ opField w = op ∧ rsvField w = rsv ∧ immField w = imm := by
  constructor
  · rintro rfl
    exact ⟨opField_packWord .., rsvField_packWord .., immField_packWord ..⟩
  · rintro ⟨rfl, rfl, rfl⟩
    exact (packWord_fields w).symm

theorem immHigh_append_immByte (imm : Word32) : immHigh imm ++ immByte imm = imm :=
  BitVec.extractLsb'_append_extractLsb'

/-- An immediate is legal when no bit is set that its format does not use. -/
theorem and_unusedImm_eq_zero_iff (f : Format) (imm : Word32) :
    imm &&& unusedImm f = 0#32 ↔ legalImm f imm = true := by
  cases f with
  | noOperand => rw [unusedImm, BitVec.and_allOnes, legalImm, beq_iff_eq]
  | wordOperand => simp [unusedImm, legalImm]
  | byteOperand =>
    have hand : imm &&& unusedImm .byteOperand = immHigh imm ++ 0#8 := by
      conv_lhs => rw [← immHigh_append_immByte imm, unusedImm, BitVec.and_append, BitVec.and_allOnes, BitVec.and_zero]
    rw [hand, legalImm, beq_iff_eq]
    exact BitVec.append_left_inj (s₂ := 0#24) 0#8

/-- A row covers exactly the words with the fields its mnemonic allows (R51). -/
theorem and_mask_eq_pattern_iff (m : Mnemonic) (w : OpWord) :
    w &&& (rowOf m).mask = (rowOf m).pattern ↔ FieldsLegal m w := by
  have hand : w &&& (rowOf m).mask =
      packWord (opField w) (rsvField w) (immField w &&& unusedImm (formatOf m)) := by
    conv_lhs => rw [← packWord_fields w, rowOf, packWord_and_packWord, BitVec.and_allOnes, BitVec.and_allOnes]
  rw [hand, rowOf, packWord_eq_iff, opField_packWord, rsvField_packWord, immField_packWord,
    and_unusedImm_eq_zero_iff, FieldsLegal]

theorem exists_row_iff (w : OpWord) : (∃ r ∈ opTable, w &&& r.mask = r.pattern) ↔ ∃ m, FieldsLegal m w := by
  simp [mem_opTable_iff, and_mask_eq_pattern_iff]

/-- Settles O3: the row of a mnemonic covers exactly the words with the fields that decoding asks of it, and op codes
are distinct. -/
theorem wordIsLegalExactlyWhenARowMatches : Obligations.WordIsLegalExactlyWhenARowMatches := by
  refine ⟨fun w => (exists_decode_eq_ok_iff w).trans (exists_row_iff w).symm, by decide, ?unique⟩
  case unique =>
    intro w r hr r' hr' hw hw'
    obtain ⟨m, rfl⟩ := (mem_opTable_iff r).mp hr
    obtain ⟨m', rfl⟩ := (mem_opTable_iff r').mp hr'
    obtain ⟨hop, -, -⟩ := (and_mask_eq_pattern_iff m w).mp hw
    obtain ⟨hop', -, -⟩ := (and_mask_eq_pattern_iff m' w).mp hw'
    rw [opCode_injective (hop.symm.trans hop')]

/-! ## Only NOP is a no-op -/

/-- The update by a byte changes a difference of two checksums in a way that the byte does not enter (R80, R90). -/
theorem crcUpd_xor_crcUpd (c d : Word32) (b : Byte) : crcUpd c b ^^^ crcUpd d b = rawSteps 8 (c ^^^ d) := by
  have hcancel (x y z : Word32) : (x ^^^ z) ^^^ (y ^^^ z) = x ^^^ y := by
    rw [BitVec.xor_comm y z, BitVec.xor_assoc, ← BitVec.xor_assoc z z y, BitVec.xor_self, BitVec.zero_xor]
  rw [crcUpd, crcUpd, hcancel, rawUpd, rawUpd, ← rawSteps_xor, hcancel, hcancel]

/-- No byte leaves every checksum as it is. -/
theorem exists_crcUpd_ne (b : Byte) : ∃ c, crcUpd c b ≠ c := by
  by_contra! hfix
  have h := crcUpd_xor_crcUpd 0#32 1#32 b
  rw [hfix, hfix] at h
  exact absurd h (by decide)

/-- The operation does nothing but give the response of NOP, at any state (R120). -/
def OnlyResponds (i : Instr) : Prop := ∀ s, exec i s = .next (respondOk s)

theorem OnlyResponds.eq_of_next {i : Instr} (h : OnlyResponds i) {s t : State} (hx : exec i s = .next t) :
    t = respondOk s :=
  Host.Outcome.next.inj (hx.symm.trans (h s))

/-- A state at which every operation without an operand but NOP shows its effect. -/
def eventful : State := { State.reset with crc := 1#32, pay := [0x00#8], ptl := true }

theorem OnlyResponds.eq_nop {i : Instr} (h : OnlyResponds i) : i = .nop := by
  cases i with
  | nop => rfl
  | rst | stat | crcInit | crcRead | frmClr | frmCmd | frmHalf =>
    exact absurd (h.eq_of_next (s := eventful) rfl) (by decide)
  | crcSeed v =>
    have hv (c : Word32) : v = c := congrArg State.crc (h.eq_of_next (s := { eventful with crc := c }) rfl)
    exact absurd ((hv 0#32).symm.trans (hv 1#32)) (by decide)
  | frmOpc v =>
    have hv (o : Word32) : v = o := congrArg State.opc (h.eq_of_next (s := { eventful with opc := o }) rfl)
    exact absurd ((hv 0#32).symm.trans (hv 1#32)) (by decide)
  | crcByte b =>
    obtain ⟨c, hc⟩ := exists_crcUpd_ne b
    exact absurd (congrArg State.crc (h.eq_of_next (s := { eventful with crc := c }) rfl)) hc
  | frmPush b =>
    have hpay : [b] = [] := congrArg State.pay (h.eq_of_next (s := State.reset) rfl)
    cases hpay

/-- NOP's word has no bit set (R120). -/
theorem eq_zero_of_decode_eq_nop {w : OpWord} (h : decode w = .ok .nop) : w = 0#64 := by
  obtain ⟨hop, hrsv, himm⟩ := fieldsLegal_of_decode_eq_ok h
  exact (packWord_eq_iff w 0#8 0#24 0#32).mpr ⟨hop, hrsv, eq_of_beq himm⟩

/-! ## Illegal words -/

theorem opCode_mem_listed (m : Mnemonic) : opCode m ∈ [0x00#8, 0x01#8, 0x02#8, 0x10#8, 0x11#8, 0x12#8, 0x13#8,
    0x20#8, 0x21#8, 0x22#8, 0x23#8, 0x24#8] := by
  cases m <;> decide

/-- Settles O4: a word is illegal when its fields suit no row; it then raises `IllegalOperation`; and an operation that
only responds is NOP. -/
theorem illegalWordsOnlyRaiseIllegalOperation : Obligations.IllegalWordsOnlyRaiseIllegalOperation := by
  refine ⟨?noRow, ?reserved, by decide +kernel, ?mustBeZero, ?effect, ?noOp⟩
  case noRow =>
    intro w hrow
    refine (illegalWord_iff w).mpr (not_exists.mp fun hm => ?_)
    obtain ⟨r, hr, hw⟩ := (exists_row_iff w).mpr hm
    exact hrow r hr hw
  case reserved =>
    intro w hop
    refine (illegalWord_iff w).mpr fun m ⟨hm, _, _⟩ => hop ?_
    exact hm ▸ opCode_mem_listed m
  case mustBeZero =>
    intro w m hop hbits
    refine (illegalWord_iff w).mpr fun m' ⟨hop', hrsv, himm⟩ => ?_
    obtain rfl := opCode_injective (hop.symm.trans hop')
    rcases hbits with hr | ⟨hf, hi⟩ | ⟨hf, hi⟩
    · exact hr hrsv
    · rw [hf] at himm
      exact hi (eq_of_beq himm)
    · rw [hf] at himm
      exact hi (eq_of_beq himm)
  case effect =>
    rintro s w rest hp ⟨e, hd⟩
    rw [step_of_decode_error hp hd, raise_eq]
    rfl
  case noOp =>
    intro w i hd honly
    obtain rfl : i = .nop := OnlyResponds.eq_nop honly
    exact eq_zero_of_decode_eq_nop hd

/-! ## The command frame -/

/-- After the four bytes of the opcode a command frame is the payload and its padding (R54). -/
theorem commandFrame_getElem?_add (o : Word32) (p : List Byte) (k : Nat) :
    (commandFrame o p)[4 + k]? = (p ++ zeros (60 - p.length))[k]? := by
  rw [commandFrame, List.append_assoc, List.getElem?_append_right (Nat.le_add_right 4 k), le32_length,
    Nat.add_sub_cancel_left]
  rfl

/-- Settles O36: the first four bytes are those of `le32`, and byte `4 + k` is byte `k` of the padded payload. -/
theorem commandFrameLayout : Obligations.CommandFrameLayout := by
  intro o p hp
  refine ⟨?length, rfl, rfl, rfl, rfl, rfl, ?payload, ?padding⟩
  case length =>
    rw [commandFrame, List.length_append, List.length_append, le32_length, zeros_length, payloadMax_eq]
    omega
  case payload =>
    intro k hk
    rw [commandFrame_getElem?_add, List.getElem?_append_left hk]
  case padding =>
    intro k hpk hk
    rw [commandFrame_getElem?_add, List.getElem?_append_right hpk, zeros,
      List.getElem?_replicate_of_lt (by omega)]

end Sys2Proof.Machine

/-! The proofs of the family 40_crc.md: the function of the CRC unit (R80, R82, R84, R85) and its operations (R86 to
R89, R91). -/

namespace Sys2Proof.Machine

/-! ## The raw register -/

theorem rawSteps_eq_iterate (n : Nat) (t : Word32) : rawSteps n t = rawStep^[n] t := by
  induction n generalizing t with
  | zero => rfl
  | succ n ih => exact ih (rawStep t)

/-- Settles O18: `rawSteps` is the iteration of the step. -/
theorem rawUpdateIsEightShiftSteps : Obligations.RawUpdateIsEightShiftSteps :=
  ⟨fun _ => rfl, fun r b => rawSteps_eq_iterate 8 (r ^^^ b.setWidth 32), by decide⟩

theorem rawStep_of_getLsbD_zero {t : Word32} (h : t.getLsbD 0 = false) : rawStep t = t >>> 1 := by
  rw [rawStep, h, if_neg Bool.false_ne_true]

/-- As long as zeros are shifted out, the polynomial is never xored in. -/
theorem rawSteps_of_low_zero (n : Nat) (t : Word32) (h : ∀ i < n, t.getLsbD i = false) : rawSteps n t = t >>> n := by
  induction n generalizing t with
  | zero => exact (BitVec.ushiftRight_zero t).symm
  | succ n ih =>
    have hlow : ∀ i < n, (t >>> 1).getLsbD i = false := fun i hi => by
      rw [BitVec.getLsbD_ushiftRight]
      exact h (1 + i) (by omega)
    rw [rawSteps, rawStep_of_getLsbD_zero (h 0 n.succ_pos), ih _ hlow, ← BitVec.shiftRight_add, Nat.add_comm]

theorem setWidth_byte_ushiftRight_eight (b : Byte) : b.setWidth 32 >>> 8 = 0#32 := by
  ext i hi
  simp

/-- Eight steps, by linearity (R90): the table entry of the low byte, and the rest moved down (R85). -/
theorem rawSteps_eight (x : Word32) : rawSteps 8 x = crcTable (x.extractLsb' 0 8) ^^^ x >>> 8 := by
  set low : Word32 := (x.extractLsb' 0 8).setWidth 32 with hdef
  have hsplit : x = low ^^^ (x ^^^ low) := by
    rw [BitVec.xor_comm x, ← BitVec.xor_assoc, BitVec.xor_self, BitVec.zero_xor]
  have htable : rawSteps 8 low = crcTable (x.extractLsb' 0 8) := by rw [crcTable, rawUpd, BitVec.zero_xor]
  have hzero : ∀ i < 8, (x ^^^ low).getLsbD i = false := fun i hi => by
    simp [hdef, hi, show i < 32 by omega]
  have hrest : rawSteps 8 (x ^^^ low) = x >>> 8 := by
    rw [rawSteps_of_low_zero 8 _ hzero, BitVec.ushiftRight_xor_distrib, setWidth_byte_ushiftRight_eight, BitVec.xor_zero]
  calc rawSteps 8 x = rawSteps 8 low ^^^ rawSteps 8 (x ^^^ low) := by rw [← rawSteps_xor, ← hsplit]
    _ = crcTable (x.extractLsb' 0 8) ^^^ x >>> 8 := by rw [htable, hrest]

/-- Settles O19: eight steps on `r xor zext(b)`, whose bits above the low byte are those of `r`. -/
theorem tableFormEqualsBitSerialForm : Obligations.TableFormEqualsBitSerialForm := by
  refine ⟨fun _ => rfl, fun r b => ?_, by decide, by decide, by decide, by decide⟩
  rw [rawUpd, rawSteps_eight, BitVec.ushiftRight_xor_distrib, setWidth_byte_ushiftRight_eight, BitVec.xor_zero]

/-! ## The finalized domain -/

theorem crcUpd_eq_not_rawUpd (c : Word32) (b : Byte) : crcUpd c b = ~~~ (rawUpd (~~~ c) b) := by
  have hnot (v : Word32) : v ^^^ Config.crcXorOut = ~~~ v := BitVec.xor_allOnes
  rw [crcUpd, hnot, hnot]

/-- The complement after one byte and the complement before the next cancel (R80). -/
theorem crcRun_eq_not_rawRun (c : Word32) (m : List Byte) : crcRun c m = ~~~ (rawRun (~~~ c) m) := by
  induction m generalizing c with
  | nil => exact BitVec.not_not.symm
  | cons b m ih => rw [crcRun_cons, rawRun_cons, ih, crcUpd_eq_not_rawUpd, BitVec.not_not]

theorem crcRun_append (c : Word32) (a b : List Byte) : crcRun c (a ++ b) = crcRun (crcRun c a) b := by
  induction a generalizing c with
  | nil => rfl
  | cons x a ih => exact ih (crcUpd c x)

/-- Settles O20: a run after one more byte is `crcRun_append` for a single byte, and `not_32(0)` is 0xFFFFFFFF. -/
theorem finalizedRunIsComplementOfRawRun : Obligations.FinalizedRunIsComplementOfRawRun :=
  ⟨crcUpd_eq_not_rawUpd, crcRun_nil, fun c m b => crcRun_append c m [b], fun _ _ => rfl, crcRun_eq_not_rawRun,
    crcRun_eq_not_rawRun 0#32⟩

/-- Settles O21: a left fold over a concatenation is two folds, the second from where the first ends. -/
theorem continuationLaw : Obligations.ContinuationLaw := fun a b s =>
  ⟨crcRun_append s a b, crcRun_append 0#32 a b⟩

/-! ## The words of the CRC operations -/

/-- An op code selects one row, so that a word whose fields do not suit this row suits none (R53). -/
theorem illegalWord_of_opField {w : OpWord} {m : Mnemonic} (hop : opField w = opCode m) (h : ¬ FieldsLegal m w) :
    IllegalWord w := by
  refine (illegalWord_iff w).mpr fun m' hm' => h ?_
  obtain rfl := opCode_injective (hop.symm.trans hm'.left)
  exact hm'

/-- A byte operand as an immediate is the byte under 24 zero bits (R50). -/
theorem byteImm_eq_append (b : Byte) : byteImm b = 0#24 ++ b := by
  conv_lhs => rw [← immHigh_append_immByte (byteImm b), immHigh_byteImm, immByte_byteImm]

/-- Settles O26: a legal word with this op code has its two other fields zero. -/
theorem crcInitWritesTheDefaultSeed : Obligations.CrcInitWritesTheDefaultSeed := by
  refine ⟨by decide, fun w hop hw => ?_, fun _ => rfl, fun _ => rfl⟩
  refine illegalWord_of_opField (m := .crcInit) hop fun ⟨_, hrsv, himm⟩ => hw ?_
  exact (packWord_eq_iff w 0x10#8 0#24 0#32).mpr ⟨hop, hrsv, eq_of_beq himm⟩

/-- Settles O27: seeding is one write of `CRC`; writing the value held changes nothing. -/
theorem crcSeedWritesItsOperand : Obligations.CrcSeedWritesItsOperand :=
  ⟨fun _ => rfl, fun _ _ => rfl, fun _ => rfl, crcRun_eq_not_rawRun 0xFFFFFFFF#32, fun _ => rfl⟩

theorem encode_crcByte (b : Byte) : encode (.crcByte b) = 0x12#8 ++ 0#24 ++ 0#24 ++ b := by
  rw [BitVec.append_assoc, ← byteImm_eq_append]
  rfl

theorem exec_crcByte (b : Byte) (s : State) :
    exec (.crcByte b) s = .next (respondOk (writeCrc (crcUpd s.crc b) s)) := rfl

/-- Settles O28: the byte's update is R80's, and 0xFFFFFFFF is the complement of the raw register 0, which zero bits
leave at 0. -/
theorem crcByteFeedsOneByte : Obligations.CrcByteFeedsOneByte := by
  refine ⟨encode_crcByte, fun w hop himm => ?mustBeZero, fun b s => ?effect, fun s hs => ?fixed⟩
  case mustBeZero =>
    exact illegalWord_of_opField (m := .crcByte) hop fun ⟨_, _, hlegal⟩ => himm (eq_of_beq hlegal)
  case effect =>
    rw [exec_crcByte, crcUpd_eq_not_rawUpd]
    rfl
  case fixed =>
    have hfix : crcUpd s.crc 0x00#8 = s.crc := by
      rw [hs]
      decide
    rw [exec_crcByte, hfix]
    rfl

/-! ## A sequence of operations -/

@[simp] theorem raise_crc (e : ErrorKind) (s : State) : (raise e s).crc = s.crc := setFlag_crc e s

theorem respond_responses_getLast? (c : Byte) (d : Word32) (s : State) :
    (respond c d s).responses.getLast? = some ⟨c, d⟩ := List.getLast?_concat

theorem fedBytes_cons (i : Instr) (is : List Instr) : fedBytes (i :: is) = fedBytes [i] ++ fedBytes is := by
  cases i <;> rfl

/-- An operation that does not start the checksum anew answers with `CRC` fed the byte of CRC.BYTE, or as it was. -/
theorem exec_next_crc {i : Instr} (hi : keepsChecksumGoing i = true) (s : State) :
    ∃ t, exec i s = .next t ∧ t.crc = crcRun s.crc (fedBytes [i]) := by
  cases i with
  | rst | crcInit | crcSeed => cases hi
  | frmPush b => exact ⟨_, rfl, pushPay_crc b s⟩
  | frmCmd =>
    by_cases hc : s.povf = true ∨ 60 < s.pay.length
    · exact ⟨_, execFrmCmd_of_fail hc, raise_crc _ s⟩
    · exact ⟨_, execFrmCmd_of_ok hc, rfl⟩
  | frmHalf =>
    by_cases hc : s.povf = true ∨ s.pay.length ≠ 64
    · exact ⟨_, execFrmHalf_of_fail hc, raise_crc _ s⟩
    · exact ⟨_, execFrmHalf_of_ok hc, rfl⟩
  | nop | stat | crcByte | crcRead | frmClr | frmOpc => exact ⟨_, rfl, rfl⟩

theorem execAll_next_crc {is : List Instr} (his : ∀ i ∈ is, keepsChecksumGoing i = true) (s : State) :
    ∃ t, execAll is s = .next t ∧ t.crc = crcRun s.crc (fedBytes is) := by
  induction is generalizing s with
  | nil => exact ⟨s, rfl, rfl⟩
  | cons i is ih =>
    obtain ⟨hi, his⟩ := List.forall_mem_cons.mp his
    obtain ⟨u, hu, hucrc⟩ := exec_next_crc hi s
    obtain ⟨t, ht, htcrc⟩ := ih his u
    refine ⟨t, ?_, ?_⟩
    · rw [execAll, hu]
      exact ht
    · rw [fedBytes_cons, crcRun_append, ← hucrc, htcrc]

section
variable {i : Instr} {is : List Instr} {s u : State} {seed : Word32}

/-- Whatever operation leaves the seed in `CRC`, the read after the bytes answers their checksum (R91). -/
theorem execAll_start_crcRead (hstart : exec i s = .next u) (hseed : u.crc = seed)
    (his : ∀ i ∈ is, keepsChecksumGoing i = true) :
    ∃ t, execAll ([i] ++ is ++ [.crcRead]) s = .next t ∧ t.crc = crc32 (fedBytes is) seed ∧
      t.responses.getLast? = some ⟨0x00#8, crc32 (fedBytes is) seed⟩ := by
  obtain ⟨v, hv, hvcrc⟩ := execAll_next_crc his u
  have hrun : execAll ([i] ++ is) s = .next v := by
    rw [execAll_append (t := u) (by rw [execAll, hstart]; rfl), hv]
  rw [hseed] at hvcrc
  refine ⟨respond okCode v.crc v, by rw [execAll_append hrun]; rfl, hvcrc, ?_⟩
  rw [respond_responses_getLast?, hvcrc]
  rfl

theorem execAll_start_crcRead_response (hstart : exec i s = .next u) (hseed : u.crc = seed)
    (his : ∀ i ∈ is, keepsChecksumGoing i = true) :
    ∃ t, execAll ([i] ++ is ++ [.crcRead]) s = .next t ∧
      t.responses.getLast? = some ⟨0x00#8, crc32 (fedBytes is) seed⟩ := by
  obtain ⟨t, ht, -, hlast⟩ := execAll_start_crcRead hstart hseed his
  exact ⟨t, ht, hlast⟩

/-- The read straight after the operation that leaves the seed in `CRC` (R89). -/
theorem execAll_start_crcRead_nil (hstart : exec i s = .next u) (hseed : u.crc = seed) :
    ∃ t, execAll [i, .crcRead] s = .next t ∧ t.responses.getLast? = some ⟨0x00#8, seed⟩ :=
  execAll_start_crcRead_response hstart hseed (List.forall_mem_nil _)

end

/-- Settles O29: CRC.INIT, RST and CRC.SEED leave the seed in `CRC`, and no byte comes before the read. -/
theorem crcReadRespondsTheChecksum : Obligations.CrcReadRespondsTheChecksum :=
  ⟨by decide, fun _ => rfl, fun _ => execAll_start_crcRead_nil rfl rfl, fun _ => execAll_start_crcRead_nil rfl rfl,
    fun _ _ => execAll_start_crcRead_nil rfl rfl⟩

/-- Settles O30: the three starts differ only in the value they leave in `CRC`. -/
theorem operationSequenceComputesTheChecksum : Obligations.OperationSequenceComputesTheChecksum := by
  refine ⟨fun seed is s his => ⟨?seed, ?init, ?rst⟩, fun s => ⟨respondOk (writeCrc s.crc s), rfl, rfl⟩⟩
  case seed => exact execAll_start_crcRead rfl rfl his
  case init => exact execAll_start_crcRead_response rfl rfl his
  case rst => exact execAll_start_crcRead_response rfl rfl his

end Sys2Proof.Machine

/-! The proofs of the family 41_frame.md: the operations of the frame unit (R100 to R104) and the sequences that send a
payload (R105, R106). -/

namespace Sys2Proof.Machine

/-! ## The operations one by one -/

@[simp] theorem raise_opc (e : ErrorKind) (s : State) : (raise e s).opc = s.opc := setFlag_opc e s

@[simp] theorem raise_tx (e : ErrorKind) (s : State) : (raise e s).tx = s.tx := setFlag_tx e s

theorem raise_responses_getLast? (e : ErrorKind) (s : State) :
    (raise e s).responses.getLast? = some ⟨errorCode e, 0#32⟩ := respond_responses_getLast? ..

/-- Settles O31: emptying an empty buffer changes nothing. -/
theorem frmClrEmptiesTheBuffer : Obligations.FrmClrEmptiesTheBuffer := by
  refine ⟨by decide, fun _ => rfl, fun s t h => ?_⟩
  cases h
  exact ⟨respondOk (emptyPay (respondOk (emptyPay s))), rfl, rfl⟩

/-- R101: `OPC` stays until the next FRM.OPC or RST. -/
theorem exec_opc_of_ne {i : Instr} {s t : State} (hopc : ∀ v, i ≠ .frmOpc v) (hrst : i ≠ .rst)
    (h : exec i s = .next t) : t.opc = s.opc := by
  cases i with
  | frmOpc v => exact absurd rfl (hopc v)
  | rst => exact absurd rfl hrst
  | frmPush b =>
    cases h
    exact pushPay_opc b s
  | frmCmd =>
    by_cases hc : s.povf = true ∨ 60 < s.pay.length
    · cases (execFrmCmd_of_fail hc).symm.trans h
      exact raise_opc _ s
    · cases (execFrmCmd_of_ok hc).symm.trans h
      rfl
  | frmHalf =>
    by_cases hc : s.povf = true ∨ s.pay.length ≠ 64
    · cases (execFrmHalf_of_fail hc).symm.trans h
      exact raise_opc _ s
    · cases (execFrmHalf_of_ok hc).symm.trans h
      rfl
  | nop | stat | crcInit | crcSeed | crcByte | crcRead | frmClr =>
    cases h
    rfl

/-- Settles O32: every 32-bit value is an operand, and the other operations but RST keep `OPC`. -/
theorem frmOpcWritesTheWireOpcode : Obligations.FrmOpcWritesTheWireOpcode :=
  ⟨fun _ => rfl, fun _ _ => rfl, fun _ _ _ => exec_opc_of_ne⟩

theorem encode_frmPush (b : Byte) : encode (.frmPush b) = 0x22#8 ++ 0#24 ++ 0#24 ++ b := by
  rw [BitVec.append_assoc, ← byteImm_eq_append]
  rfl

theorem exec_frmPush (b : Byte) (s : State) : exec (.frmPush b) s = .next (respondOk (pushPay b s)) := rfl

/-- Settles O33: a push is `pushPay`, on both sides of the capacity, and an OK response. -/
theorem frmPushAppendsOrMarksOverflow : Obligations.FrmPushAppendsOrMarksOverflow := by
  refine ⟨encode_frmPush, fun w hop himm => ?mustBeZero, fun b s => ?effect⟩
  case mustBeZero =>
    exact illegalWord_of_opField (m := .frmPush) hop fun ⟨_, _, hlegal⟩ => himm (eq_of_beq hlegal)
  case effect =>
    rw [exec_frmPush]
    split
    case isTrue hlt => rw [pushPay_of_lt b s hlt]; rfl
    case isFalse hge => rw [pushPay_of_ge b s (Nat.not_lt.mp hge)]; rfl

/-- Settles O34: the two paths of the check that FRM.CMD makes before it writes. -/
theorem frmCmdEmitsTheCommandFrameOrFails : Obligations.FrmCmdEmitsTheCommandFrameOrFails := by
  refine ⟨by decide, fun s hpovf hlen => ?ok, fun s hfail => execFrmCmd_of_fail hfail⟩
  case ok =>
    have hfits : ¬ (s.povf = true ∨ 60 < s.pay.length) := by simp [hpovf, hlen]
    exact execFrmCmd_of_ok hfits

/-- Settles O35: the two paths of the check that FRM.HALF makes before it writes. -/
theorem frmHalfEmitsTheHalfPageOrFails : Obligations.FrmHalfEmitsTheHalfPageOrFails := by
  refine ⟨by decide, fun s hpovf hlen => ?ok, fun s hfail => execFrmHalf_of_fail hfail⟩
  case ok =>
    have hfits : ¬ (s.povf = true ∨ s.pay.length ≠ 64) := by simp [hpovf, hlen]
    exact execFrmHalf_of_ok hfits

/-! ## Building a payload -/

/-- The buffer after the bytes `p` were pushed into it from empty: the first 64 of them, and the overflow mark if there
were more (R12, R13). -/
def BufferHolds (p : List Byte) (s : State) : Prop :=
  s.pay = p.take 64 ∧ s.povf = decide (64 < p.length)

theorem BufferHolds.push {p : List Byte} {s : State} (h : BufferHolds p s) (b : Byte) :
    BufferHolds (p ++ [b]) (pushPay b s) := by
  obtain ⟨hpay, hpovf⟩ := h
  have hlen : s.pay.length = min 64 p.length := by rw [hpay, List.length_take]
  rcases Nat.lt_or_ge p.length 64 with hlt | hge
  · have hall : s.pay = p := hpay.trans (List.take_of_length_le hlt.le)
    rw [pushPay_of_lt b s (by omega), BufferHolds, hall, hpovf, List.length_append, List.length_singleton,
      List.take_of_length_le (by simpa using hlt)]
    exact ⟨rfl, decide_eq_decide.mpr (by omega)⟩
  · rw [pushPay_of_ge b s (by omega), BufferHolds, List.take_append_of_le_length hge, List.length_append,
      List.length_singleton]
    exact ⟨hpay, (decide_eq_true (by omega)).symm⟩

/-- FRM.CMD's check, in terms of the bytes pushed: they do not fit in a command frame (R134). -/
theorem BufferHolds.frmCmd_fails_iff {p : List Byte} {s : State} (h : BufferHolds p s) :
    (s.povf = true ∨ 60 < s.pay.length) ↔ 60 < p.length := by
  obtain ⟨hpay, hpovf⟩ := h
  rw [hpay, hpovf, List.length_take, decide_eq_true_iff]
  omega

/-- FRM.HALF's check, in terms of the bytes pushed: they are not 64 (R135). -/
theorem BufferHolds.frmHalf_fails_iff {p : List Byte} {s : State} (h : BufferHolds p s) :
    (s.povf = true ∨ s.pay.length ≠ 64) ↔ p.length ≠ 64 := by
  obtain ⟨hpay, hpovf⟩ := h
  rw [hpay, hpovf, List.length_take, decide_eq_true_iff]
  omega

/-- Up to 64 bytes, the buffer holds all that was pushed. -/
theorem BufferHolds.pay_eq {p : List Byte} {s : State} (h : BufferHolds p s) (hp : p.length ≤ 64) : s.pay = p :=
  h.left.trans (List.take_of_length_le hp)

/-- The frame unit before a send: `TX` is `tx`, `OPC` is `o`, and the bytes `p` were pushed. -/
def ReadyToSend (tx : List Frame) (o : Word32) (p : List Byte) (s : State) : Prop :=
  s.tx = tx ∧ s.opc = o ∧ BufferHolds p s

theorem pushedBytes_cons (i : Instr) (is : List Instr) : pushedBytes (i :: is) = pushedBytes [i] ++ pushedBytes is := by
  cases i <;> rfl

theorem lastOpcode_cons (o : Word32) (i : Instr) (is : List Instr) :
    lastOpcode o (i :: is) = lastOpcode (lastOpcode o [i]) is := by
  cases i <;> rfl

section
variable {tx : List Frame} {o : Word32} {p : List Byte} {s : State} {is : List Instr}

/-- Between FRM.CLR and the send, FRM.OPC sets the opcode, FRM.PUSH adds its byte, and the rest change neither. -/
theorem exec_readyToSend {i : Instr} (hi : keepsPayloadGrowing i = true) (h : ReadyToSend tx o p s) :
    ∃ t, exec i s = .next t ∧ ReadyToSend tx (lastOpcode o [i]) (p ++ pushedBytes [i]) t := by
  obtain ⟨htx, hopc, hbuf⟩ := h
  cases i with
  | rst | frmClr | frmCmd | frmHalf => cases hi
  | frmPush b => exact ⟨_, rfl, (pushPay_tx b s).trans htx, (pushPay_opc b s).trans hopc, hbuf.push b⟩
  | frmOpc v => exact ⟨_, rfl, htx, rfl, (List.append_nil p).symm ▸ hbuf⟩
  | nop | stat | crcInit | crcSeed | crcByte | crcRead =>
    exact ⟨_, rfl, htx, hopc, (List.append_nil p).symm ▸ hbuf⟩

theorem execAll_readyToSend (his : ∀ i ∈ is, keepsPayloadGrowing i = true) (h : ReadyToSend tx o p s) :
    ∃ t, execAll is s = .next t ∧ ReadyToSend tx (lastOpcode o is) (p ++ pushedBytes is) t := by
  induction is generalizing o p s with
  | nil => exact ⟨s, rfl, (List.append_nil p).symm ▸ h⟩
  | cons i is ih =>
    obtain ⟨hi, his⟩ := List.forall_mem_cons.mp his
    obtain ⟨u, hu, hready⟩ := exec_readyToSend hi h
    rw [execAll, hu, lastOpcode_cons, pushedBytes_cons, ← List.append_assoc]
    exact ih his hready

/-- After FRM.CLR, from every state, the payload is what the operations push (R105, R106). -/
theorem execAll_frmClr_readyToSend (his : ∀ i ∈ is, keepsPayloadGrowing i = true) (s : State) :
    ∃ t, execAll ([.frmClr] ++ is) s = .next t ∧ ReadyToSend s.tx (lastOpcode s.opc is) (pushedBytes is) t :=
  execAll_readyToSend (p := []) (s := respondOk (emptyPay s)) his ⟨rfl, rfl, rfl, rfl⟩

end

/-- One more operation after a list (R36). -/
theorem execAll_concat {is : List Instr} {i : Instr} {s u t : State} (his : execAll is s = .next u)
    (hi : exec i u = .next t) : execAll (is ++ [i]) s = .next t := by
  rw [execAll_append his, execAll, hi]
  rfl

/-- Settles O39: the operations leave the unit ready to send the bytes pushed, and FRM.CMD's check is whether these are
more than 60. -/
theorem operationSequenceSendsTheCommand : Obligations.OperationSequenceSendsTheCommand := by
  intro is s his
  obtain ⟨u, hu, htx, hopc, hbuf⟩ := execAll_frmClr_readyToSend his s
  rcases Nat.lt_or_ge 60 (pushedBytes is).length with hlarge | hfits
  · exact ⟨_, execAll_concat hu (execFrmCmd_of_fail (hbuf.frmCmd_fails_iff.mpr hlarge)),
      fun hle => absurd hlarge (Nat.not_lt.mpr hle),
      fun _ => ⟨raise_responses_getLast? .payloadTooLarge u, rfl, (raise_tx _ u).trans htx⟩⟩
  · have hok := execFrmCmd_of_ok (mt hbuf.frmCmd_fails_iff.mp (Nat.not_lt.mpr hfits))
    refine ⟨_, execAll_concat hu hok, fun _ => ⟨respond_responses_getLast? .., ?frame⟩,
      fun hlarge => absurd hfits (Nat.not_le.mpr hlarge)⟩
    case frame =>
      rw [hopc, hbuf.pay_eq (by omega), ← htx]
      rfl

/-- Settles O40: the operations leave the unit ready to send the bytes pushed, and FRM.HALF's check is whether these are
64. -/
theorem operationSequenceSendsTheHalfPage : Obligations.OperationSequenceSendsTheHalfPage := by
  intro is s his
  obtain ⟨u, hu, htx, -, hbuf⟩ := execAll_frmClr_readyToSend his s
  by_cases hlen : (pushedBytes is).length = 64
  · have hok := execFrmHalf_of_ok (mt hbuf.frmHalf_fails_iff.mp (not_not.mpr hlen))
    refine ⟨_, execAll_concat hu hok, fun _ => ⟨respond_responses_getLast? .., ?frame⟩, fun hne => absurd hlen hne⟩
    case frame =>
      rw [hbuf.pay_eq hlen.le, ← htx]
      rfl
  · exact ⟨_, execAll_concat hu (execFrmHalf_of_fail (hbuf.frmHalf_fails_iff.mpr hlen)),
      fun heq => absurd heq hlen,
      fun _ => ⟨raise_responses_getLast? .invalidHalfPageSize u, rfl, (raise_tx _ u).trans htx⟩⟩

end Sys2Proof.Machine

/-! The proofs of the family 42_system.md: NOP, RST and STAT (R120 to R122). -/

namespace Sys2Proof.Machine

/-! ## NOP -/

/-- Settles O14: a legal word with op code 0 has its two other fields zero, and so is the word of NOP. -/
theorem nopOnlyResponds : Obligations.NopOnlyResponds := by
  refine ⟨by decide, fun _ => rfl, fun w hop hw => ?_⟩
  refine illegalWord_of_opField (m := .nop) hop fun ⟨_, hrsv, himm⟩ => hw ?_
  exact (packWord_eq_iff w 0x00#8 0#24 0#32).mpr ⟨hop, hrsv, eq_of_beq himm⟩

/-! ## RST -/

/-- Flags that follow the response are never cleared: each is the flag before, or one more set (R15). -/
theorem FlagsFollowResponse.flags_stay_set {s t : State} (h : FlagsFollowResponse s t) :
    (s.ptl = true → t.ptl = true) ∧ (s.ihs = true → t.ihs = true) ∧ (s.ill = true → t.ill = true) := by
  obtain ⟨r, -, hptl, hihs, hill⟩ := h
  exact ⟨fun hs => by rw [hptl, hs, Bool.true_or], fun hs => by rw [hihs, hs, Bool.true_or],
    fun hs => by rw [hill, hs, Bool.true_or]⟩

/-- Settles O15: RST is `resetRegisters`, which changes no register that is reset already, and an OK response; after any
other operation the flags follow the response. -/
theorem rstRestoresEveryRegister : Obligations.RstRestoresEveryRegister := by
  refine ⟨by decide, fun _ => rfl, ?idempotent, ?flags⟩
  case idempotent =>
    intro s t h
    cases h
    exact ⟨respondOk (resetRegisters (respondOk (resetRegisters s))), rfl, rfl⟩
  case flags =>
    intro i s t hi h
    exact (exec_flagsFollowResponse hi h).flags_stay_set

/-! ## STAT -/

/-- The low 7 bits of the status word are `PLEN` (R17). -/
theorem status_extractLsb'_plen (s : State) : (status s).extractLsb' 0 7 = BitVec.ofNat 7 s.pay.length :=
  BitVec.extractLsb'_append_eq_right

/-- The `PLEN` field never reads more than the length of the buffer (R12, R17). -/
theorem status_plen_toNat_le (s : State) : ((status s).extractLsb' 0 7).toNat ≤ s.pay.length := by
  rw [status_extractLsb'_plen, BitVec.toNat_ofNat]
  exact Nat.mod_le _ _

/-- Settles O16: STAT responds `status`, whose `PLEN` field is bounded by the length of the buffer. -/
theorem statRespondsTheStatusWord : Obligations.StatRespondsTheStatusWord := by
  refine ⟨by decide, fun _ => rfl, ?plen⟩
  case plen =>
    rintro s t ⟨hpay, -⟩ h
    cases h
    exact ⟨status s, respond_responses_getLast? okCode (status s) s, (status_plen_toNat_le s).trans hpay⟩

end Sys2Proof.Machine

/-! The proof of the family 60_exceptions.md: what an error leaves unchanged (R133). -/

namespace Sys2Proof.Machine

/-! ## An operation raises an error, or its response is OK -/

/-- `t` is `s` after a `raise`, or follows `s` with one more response, an OK one (R32, R133). -/
def RaisesOrRespondsOk (s t : State) : Prop :=
  (∃ e, t = raise e s) ∨ ∃ d, t.responses = s.responses ++ [⟨0x00#8, d⟩]

/-- Only FRM.CMD and FRM.HALF have a failing path, and each checks before it writes (R138). -/
theorem exec_raisesOrRespondsOk {i : Instr} {s t : State} (h : exec i s = .next t) : RaisesOrRespondsOk s t := by
  cases i with
  | frmCmd =>
    by_cases hc : s.povf = true ∨ 60 < s.pay.length
    · cases (execFrmCmd_of_fail hc).symm.trans h
      exact .inl ⟨.payloadTooLarge, rfl⟩
    · cases (execFrmCmd_of_ok hc).symm.trans h
      exact .inr ⟨_, rfl⟩
  | frmHalf =>
    by_cases hc : s.povf = true ∨ s.pay.length ≠ 64
    · cases (execFrmHalf_of_fail hc).symm.trans h
      exact .inl ⟨.invalidHalfPageSize, rfl⟩
    · cases (execFrmHalf_of_ok hc).symm.trans h
      exact .inr ⟨_, rfl⟩
  | frmPush b =>
    cases h
    exact .inr ⟨0#32, by rw [respondOk_responses, pushPay_responses]⟩
  | nop | rst | stat | crcInit | crcSeed | crcByte | crcRead | frmClr | frmOpc =>
    cases h
    exact .inr ⟨_, rfl⟩

theorem step_raisesOrRespondsOk {s t : State} {w : OpWord} {rest : List PortEvent} (hp : s.port = .issue w :: rest)
    (h : step s = .next t) : RaisesOrRespondsOk { s with port := rest } t := by
  cases hd : decode w with
  | ok i => exact exec_raisesOrRespondsOk ((step_of_decode_ok hp hd).symm.trans h)
  | error e =>
    cases (step_of_decode_error hp hd).symm.trans h
    exact .inl ⟨.illegalOperation, rfl⟩

/-! ## The state after an error -/

/-- The state after a `raise`, each flag by the code that the response carries (R130, R133). -/
theorem raise_eq_flags_by_code (e : ErrorKind) (s : State) :
    raise e s = { s with
      responses := s.responses ++ [⟨errorCode e, 0#32⟩], ptl := s.ptl || errorCode e == 0x01#8,
      ihs := s.ihs || errorCode e == 0x02#8, ill := s.ill || errorCode e == 0x03#8 } := by
  cases e <;> simp [raise, respond, setFlag, errorCode]

/-- Settles O49: a step whose response is not OK is a `raise` at the state with the word taken. -/
theorem failingOperationChangesOnlyItsFlag : Obligations.FailingOperationChangesOnlyItsFlag := by
  intro s t w rest r hp hx hr hcode
  rcases step_raisesOrRespondsOk hp hx with ⟨e, rfl⟩ | ⟨d, hok⟩
  · obtain rfl : r = ⟨errorCode e, 0#32⟩ := by simpa [raise_eq] using hr.symm
    exact ⟨rfl, raise_eq_flags_by_code e _⟩
  · obtain rfl : r = ⟨0x00#8, d⟩ := by simpa using hr.symm.trans hok
    exact absurd rfl hcode

end Sys2Proof.Machine

/-! The proof of the family 70_reset_and_hazards.md: the hardware reset beside RST (R150). -/

namespace Sys2Proof.Machine

/-- RST is the hardware reset followed by an OK response (R121, R150). -/
theorem exec_rst_eq_hardwareReset (s : State) : exec .rst s = .next (respondOk (hardwareReset s)) := rfl

/-- All that the hardware reset does: it writes the reset values of R20, and keeps `TX`, the port and the responses
(R150). -/
theorem hardwareReset_eq (s : State) : hardwareReset s = { s with
    crc := 0x00000000#32, opc := 0x00000000#32, pay := [], povf := false, ptl := false, ihs := false,
    ill := false } := rfl

/-- Settles O11: the step is `hardwareReset` at the state with the event taken, and RST is `hardwareReset` with an OK
response, which only adds to the history. -/
theorem hardwareResetEqualsRstWithoutResponse : Obligations.HardwareResetEqualsRstWithoutResponse := by
  intro s rest hp
  have hstep : step s = .next (hardwareReset { s with port := rest }) := step_of_reset hp
  refine ⟨?resetValues, ⟨_, exec_rst_eq_hardwareReset _, ?sameAsRst⟩, rfl⟩
  case resetValues => rw [hstep, hardwareReset_eq]
  case sameAsRst =>
    rw [hstep]
    rfl

end Sys2Proof.Machine

/-! Every operation as a check, an effect and a response; from it the invariant of the state (R12, R13, R33, R130), and
the round trip of decoding and encoding (R50 to R53). -/

namespace Sys2Proof.Machine

/-! ## What an operation does, said once -/

/-- The error that an operation raises at a state, if any (R134, R135). -/
def failureOf (i : Instr) (s : State) : Option ErrorKind :=
  match i with
  | .frmCmd => if s.povf = true ∨ 60 < s.pay.length then some .payloadTooLarge else none
  | .frmHalf => if s.povf = true ∨ s.pay.length ≠ 64 then some .invalidHalfPageSize else none
  | .nop | .rst | .stat | .crcInit | .crcSeed _ | .crcByte _ | .crcRead | .frmClr | .frmOpc _ | .frmPush _ => none

/-- What a successful operation does to the state before it responds. -/
def effectOf (i : Instr) (s : State) : State :=
  match i with
  | .nop | .stat | .crcRead => s
  | .rst => resetRegisters s
  | .crcInit => writeCrc Config.defaultSeed s
  | .crcSeed v => writeCrc v s
  | .crcByte b => writeCrc (crcUpd s.crc b) s
  | .frmClr => emptyPay s
  | .frmOpc v => writeOpc v s
  | .frmPush b => pushPay b s
  | .frmCmd => emptyPay (emitFrame (commandFrame s.opc s.pay) s)
  | .frmHalf => emptyPay (emitFrame (halfPageFrame s.pay) s)

/-- The state after an operation (R133, R138): the error raised, or the effect and an OK response. -/
def after (i : Instr) (s : State) : State :=
  match failureOf i s with
  | some e => raise e s
  | none => respond okCode (successData s i) (effectOf i s)

section
variable {i : Instr} {s : State}

theorem after_of_some {e : ErrorKind} (h : failureOf i s = some e) : after i s = raise e s := by
  rw [after, h]

theorem after_of_none (h : failureOf i s = none) : after i s = respond okCode (successData s i) (effectOf i s) := by
  rw [after, h]

/-- Every operation completes, in the state `after` (R158). -/
theorem exec_eq_after (i : Instr) (s : State) : exec i s = .next (after i s) := by
  cases i with
  | frmCmd =>
    by_cases hc : s.povf = true ∨ 60 < s.pay.length
    · rw [after_of_some (i := .frmCmd) (e := .payloadTooLarge) (if_pos hc)]
      exact execFrmCmd_of_fail hc
    · rw [after_of_none (i := .frmCmd) (if_neg hc)]
      exact execFrmCmd_of_ok hc
  | frmHalf =>
    by_cases hc : s.povf = true ∨ s.pay.length ≠ 64
    · rw [after_of_some (i := .frmHalf) (e := .invalidHalfPageSize) (if_pos hc)]
      exact execFrmHalf_of_fail hc
    · rw [after_of_none (i := .frmHalf) (if_neg hc)]
      exact execFrmHalf_of_ok hc
  | nop | rst | stat | crcInit | crcSeed | crcByte | crcRead | frmClr | frmOpc | frmPush => rfl

theorem eq_after_of_next {t : State} (h : exec i s = .next t) : t = after i s :=
  Host.Outcome.next.inj (h.symm.trans (exec_eq_after i s))

/-- Only FRM.CMD and FRM.HALF fail, each with its own error (R130). -/
theorem failureOf_eq_some_iff {e : ErrorKind} : failureOf i s = some e ↔
    (i = .frmCmd ∧ e = .payloadTooLarge ∧ (s.povf = true ∨ 60 < s.pay.length)) ∨
    (i = .frmHalf ∧ e = .invalidHalfPageSize ∧ (s.povf = true ∨ s.pay.length ≠ 64)) := by
  cases i with
  | frmCmd | frmHalf => simp [failureOf, and_comm, eq_comm (a := e)]
  | nop | rst | stat | crcInit | crcSeed | crcByte | crcRead | frmClr | frmOpc | frmPush => simp [failureOf]

theorem failureOf_frmCmd_eq_none_iff : failureOf .frmCmd s = none ↔ s.povf = false ∧ s.pay.length ≤ 60 := by
  simp [failureOf]

theorem failureOf_frmHalf_eq_none_iff : failureOf .frmHalf s = none ↔ s.povf = false ∧ s.pay.length = 64 := by
  simp [failureOf]

end

/-! ## The invariant, for each state operation -/

section
variable {s : State}

theorem inv_respond {c : Byte} {d : Word32} (h : Inv s) (hc : c.toNat ≤ 3) (hd : c ≠ 0x00#8 → d = 0#32) :
    Inv (respond c d s) := by
  obtain ⟨hlen, hpovf, htx, hresp⟩ := h
  refine ⟨hlen, hpovf, htx, fun r hr => ?_⟩
  rcases List.mem_append.mp hr with hold | hnew
  · exact hresp r hold
  · obtain rfl := List.mem_singleton.mp hnew
    exact ⟨hc, hd⟩

theorem inv_raise (e : ErrorKind) (h : Inv s) : Inv (raise e s) := by
  have hflag : Inv (setFlag e s) := by cases e <;> exact h
  exact inv_respond hflag (by cases e <;> decide) fun _ => rfl

/-- An empty buffer meets the bounds on the buffer, so that only the histories matter. -/
theorem inv_of_pay_eq_nil {t : State} (h : Inv s) (hpay : t.pay = []) (hpovf : t.povf = false) (htx : t.tx = s.tx)
    (hresp : t.responses = s.responses) : Inv t := by
  obtain ⟨-, -, htx', hresp'⟩ := h
  exact ⟨by simp [hpay], by simp [hpovf], htx ▸ htx', hresp ▸ hresp'⟩

theorem inv_emptyPay (h : Inv s) : Inv (emptyPay s) := inv_of_pay_eq_nil h rfl rfl rfl rfl

theorem inv_resetRegisters (h : Inv s) : Inv (resetRegisters s) := inv_of_pay_eq_nil h rfl rfl rfl rfl

theorem inv_emitFrame {f : Frame} (h : Inv s) (hf : f.length = 64) : Inv (emitFrame f s) := by
  obtain ⟨hlen, hpovf, htx, hresp⟩ := h
  refine ⟨hlen, hpovf, fun g hg => ?_, hresp⟩
  rcases List.mem_append.mp hg with hold | hnew
  · exact htx g hold
  · obtain rfl := List.mem_singleton.mp hnew
    exact hf

/-- A push fills the buffer by one byte below the capacity, where no overflow is marked, and marks it at the capacity
(R12, R13). -/
theorem inv_pushPay (b : Byte) (h : Inv s) : Inv (pushPay b s) := by
  obtain ⟨hlen, hpovf, htx, hresp⟩ := h
  rcases Nat.lt_or_ge s.pay.length 64 with hlt | hge
  · rw [pushPay_of_lt b s hlt]
    exact ⟨by simpa using hlt, fun hs => absurd (hpovf hs) hlt.ne, htx, hresp⟩
  · rw [pushPay_of_ge b s hge]
    exact ⟨hlen, fun _ => Nat.le_antisymm hlen hge, htx, hresp⟩

theorem commandFrame_length {p : List Byte} (o : Word32) (h : p.length ≤ 60) : (commandFrame o p).length = 64 := by
  obtain ⟨hlen, -⟩ := commandFrameLayout o p h
  exact hlen

theorem inv_effectOf {i : Instr} (h : Inv s) (hok : failureOf i s = none) : Inv (effectOf i s) := by
  cases i with
  | rst => exact inv_resetRegisters h
  | frmClr => exact inv_emptyPay h
  | frmPush b => exact inv_pushPay b h
  | frmCmd =>
    obtain ⟨-, hfits⟩ := failureOf_frmCmd_eq_none_iff.mp hok
    exact inv_emptyPay (inv_emitFrame h (commandFrame_length s.opc hfits))
  | frmHalf =>
    obtain ⟨-, hhalf⟩ := failureOf_frmHalf_eq_none_iff.mp hok
    exact inv_emptyPay (inv_emitFrame h hhalf)
  | nop | stat | crcInit | crcSeed | crcByte | crcRead | frmOpc => exact h

theorem inv_after (i : Instr) (h : Inv s) : Inv (after i s) := by
  cases hf : failureOf i s with
  | some e =>
    rw [after_of_some hf]
    exact inv_raise e h
  | none =>
    rw [after_of_none hf]
    exact inv_respond (inv_effectOf h hf) (Nat.zero_le 3) fun hc => absurd rfl hc

end

/-- Settles O13: taking an event leaves the invariant's fields alone, and every operation, an illegal word and a reset
keep it. -/
theorem stepKeepsTheStateInvariant : Obligations.StepKeepsTheStateInvariant := by
  intro s t hinv h
  rcases step_next_cases h with ⟨-, rfl⟩ | ⟨w, rest, i, -, -, hx⟩ | ⟨w, rest, -, -, rfl⟩ | ⟨rest, -, rfl⟩
  · exact hinv
  · rw [eq_after_of_next hx]
    exact inv_after i hinv
  · exact inv_raise .illegalOperation hinv
  · exact inv_resetRegisters hinv

/-- Settles O12: the buffer and the two histories are empty. -/
theorem resetStateMeetsTheInvariant : Obligations.ResetStateMeetsTheInvariant :=
  ⟨Nat.zero_le 64, nofun, List.forall_mem_nil _, List.forall_mem_nil _⟩

/-! ## Decoding and encoding -/

theorem immOf_legal (i : Instr) : legalImm (formatOf i.mnemonic) (immOf i) = true := by
  cases i with
  | crcByte b | frmPush b => exact beq_iff_eq.mpr (immHigh_byteImm b)
  | nop | rst | stat | crcInit | crcSeed | crcRead | frmClr | frmOpc | frmCmd | frmHalf => rfl

theorem instrOf_immOf (i : Instr) : instrOf i.mnemonic (immOf i) = i := by
  cases i with
  | crcByte b => exact congrArg Instr.crcByte (immByte_byteImm b)
  | frmPush b => exact congrArg Instr.frmPush (immByte_byteImm b)
  | nop | rst | stat | crcInit | crcSeed | crcRead | frmClr | frmOpc | frmCmd | frmHalf => rfl

/-- Settles O1: the fields of an operation's word select its row, whose format gives the operand back. -/
theorem decodeOfEncodeIsTheOperation : Obligations.DecodeOfEncodeIsTheOperation := by
  intro i
  refine (decode_eq_ok_iff (encode i) i).mpr ⟨i.mnemonic, ?_⟩
  rw [encode, opField_packWord, rsvField_packWord, immField_packWord]
  exact ⟨mnemonicOf_opCode _, rfl, immOf_legal i, instrOf_immOf i⟩

theorem byteImm_immByte {imm : Word32} (h : immHigh imm = 0#24) : byteImm (immByte imm) = imm := by
  rw [byteImm_eq_append, ← h, immHigh_append_immByte]

/-- The operand that a format takes from a legal immediate leaves no bit of it out (R50). -/
theorem immOf_instrOf {m : Mnemonic} {imm : Word32} (h : legalImm (formatOf m) imm = true) :
    immOf (instrOf m imm) = imm := by
  cases m with
  | crcSeed | frmOpc => rfl
  | crcByte | frmPush => exact byteImm_immByte (eq_of_beq h)
  | nop | rst | stat | crcInit | crcRead | frmClr | frmCmd | frmHalf => exact (eq_of_beq h).symm

/-- Settles O2: the fields of a legal word are the op code of its row, zero, and the immediate of its operand. -/
theorem encodeOfDecodeIsTheWord : Obligations.EncodeOfDecodeIsTheWord := by
  intro w i h
  obtain ⟨m, hm, hrsv, himm, rfl⟩ := (decode_eq_ok_iff w i).mp h
  refine ((packWord_eq_iff w _ _ _).mpr ⟨?_, hrsv, (immOf_instrOf himm).symm⟩).symm
  rw [instrOf_mnemonic, opCode_of_mnemonicOf hm]

/-- Settles O5: one word of each family, and two illegal words. -/
theorem sampleWordsDecodeAsTheSpecSays : Obligations.SampleWordsDecodeAsTheSpecSays :=
  ⟨by decide, by decide, by decide, by decide, by decide, by decide, by decide⟩

end Sys2Proof.Machine

/-! The step over the operation port (R31, R36, R39), and what each operation changes and leaves alone. -/

namespace Sys2Proof.Machine

/-! ## Operations do not see the port -/

/-- The state with another operation port. -/
def withPort (p : List PortEvent) (s : State) : State := { s with port := p }

theorem pushPay_withPort (p : List PortEvent) (b : Byte) (s : State) :
    pushPay b (withPort p s) = withPort p (pushPay b s) := by
  rcases Nat.lt_or_ge s.pay.length 64 with hlt | hge
  · rw [pushPay_of_lt b s hlt, pushPay_of_lt b (withPort p s) hlt]; rfl
  · rw [pushPay_of_ge b s hge, pushPay_of_ge b (withPort p s) hge]; rfl

theorem effectOf_withPort (p : List PortEvent) (i : Instr) (s : State) :
    effectOf i (withPort p s) = withPort p (effectOf i s) := by
  cases i with
  | frmPush b => exact pushPay_withPort p b s
  | nop | rst | stat | crcInit | crcSeed | crcByte | crcRead | frmClr | frmOpc | frmCmd | frmHalf => rfl

theorem failureOf_withPort (p : List PortEvent) (i : Instr) (s : State) :
    failureOf i (withPort p s) = failureOf i s := by
  cases i <;> rfl

theorem successData_withPort (p : List PortEvent) (i : Instr) (s : State) :
    successData (withPort p s) i = successData s i := by
  cases i <;> rfl

/-- An operation leaves whatever waits at the port, and does the same whatever it is (R31). -/
theorem after_withPort (p : List PortEvent) (i : Instr) (s : State) :
    after i (withPort p s) = withPort p (after i s) := by
  cases h : failureOf i s with
  | some e =>
    rw [after_of_some h, after_of_some ((failureOf_withPort p i s).trans h)]
    cases e <;> rfl
  | none =>
    rw [after_of_none h, after_of_none ((failureOf_withPort p i s).trans h), effectOf_withPort, successData_withPort]
    rfl

theorem after_port (i : Instr) (s : State) : (after i s).port = s.port :=
  (congrArg State.port (after_withPort s.port i s) :)

/-! ## The step -/

/-- Settles O6: a legal word runs its operation. -/
theorem stepRunsTheDecodedOperation : Obligations.StepRunsTheDecodedOperation :=
  fun _ _ _ _ => step_of_decode_ok

/-- Settles O7: there is no event to take. -/
theorem noEventLeavesTheStateAsItIs : Obligations.NoEventLeavesTheStateAsItIs := by
  intro s hp
  rw [step, takeEvent_nil hp]

/-- Settles O8: the event taken is a contention. -/
theorem concurrentIssueIsRefused : Obligations.ConcurrentIssueIsRefused := by
  intro s w₁ w₂ rest hp
  rw [step, takeEvent_cons hp]

theorem run_succ_of_next {M : Host.Core} {s t : M.State} (h : M.step s = .next t) (k : Nat) :
    M.run (k + 1) s = M.run k t := by
  rw [Host.Core.run, h]

theorem execAll_cons (i : Instr) (is : List Instr) (s : State) :
    execAll (i :: is) s = execAll is (after i s) := by
  rw [execAll, exec_eq_after]

/-- Settles O9: one step takes the first word and runs its operation, which leaves the words of the others at the
port. -/
theorem stepsOverThePortAreTheOperationsInOrder : Obligations.StepsOverThePortAreTheOperationsInOrder := by
  intro is rest s hp
  induction is generalizing s with
  | nil =>
    obtain rfl : s.port = rest := hp
    rfl
  | cons i is ih =>
    set waiting := is.map (fun i => PortEvent.issue (encode i)) ++ rest with hwaiting
    have hstep : step s = .next (after i (withPort waiting s)) :=
      (step_of_decode_ok hp (decodeOfEncodeIsTheOperation i)).trans (exec_eq_after i _)
    have hport : (after i (withPort waiting s)).port = waiting := after_port i _
    have hrest : withPort rest (after i (withPort waiting s)) = after i (withPort rest s) :=
      (after_withPort rest i (withPort waiting s)).symm
    refine (run_succ_of_next (M := Sys2Proof.core) hstep is.length).trans ((ih _ hport).trans ?_)
    exact (congrArg (execAll is) hrest).trans (execAll_cons i is (withPort rest s)).symm

/-! ## The response of an operation -/

/-- The one response of an operation (R32). -/
def responseTo (i : Instr) (s : State) : Response :=
  match failureOf i s with
  | some e => ⟨errorCode e, 0#32⟩
  | none => ⟨okCode, successData s i⟩

theorem responseTo_of_some {i : Instr} {s : State} {e : ErrorKind} (h : failureOf i s = some e) :
    responseTo i s = ⟨errorCode e, 0#32⟩ := by
  rw [responseTo, h]

theorem responseTo_of_none {i : Instr} {s : State} (h : failureOf i s = none) :
    responseTo i s = ⟨okCode, successData s i⟩ := by
  rw [responseTo, h]

theorem effectOf_responses (i : Instr) (s : State) : (effectOf i s).responses = s.responses := by
  cases i with
  | frmPush b => exact pushPay_responses b s
  | nop | rst | stat | crcInit | crcSeed | crcByte | crcRead | frmClr | frmOpc | frmCmd | frmHalf => rfl

theorem raise_responses (e : ErrorKind) (s : State) :
    (raise e s).responses = s.responses ++ [⟨errorCode e, 0#32⟩] := by rw [raise_eq]

theorem after_responses (i : Instr) (s : State) : (after i s).responses = s.responses ++ [responseTo i s] := by
  cases h : failureOf i s with
  | some e => rw [after_of_some h, responseTo_of_some h, raise_responses]
  | none => rw [after_of_none h, responseTo_of_none h, respond_responses, effectOf_responses]

/-- A response found at the end of the history is the response of the operation. -/
theorem eq_responseTo {i : Instr} {s t : State} {r : Response} (h : exec i s = .next t)
    (hr : t.responses = s.responses ++ [r]) : r = responseTo i s := by
  rw [eq_after_of_next h, after_responses] at hr
  simpa using hr.symm

theorem errorCode_injective : Function.Injective errorCode := by
  intro e e' h
  cases e <;> cases e' <;> simp [errorCode] at h ⊢

theorem responseTo_code_eq_errorCode_iff (i : Instr) (s : State) (e : ErrorKind) :
    (responseTo i s).code = errorCode e ↔ failureOf i s = some e := by
  cases h : failureOf i s with
  | some e' =>
    rw [responseTo_of_some h, Option.some_inj]
    exact errorCode_injective.eq_iff
  | none =>
    rw [responseTo_of_none h]
    exact ⟨fun hc => absurd hc.symm (errorCode_ne_ok e), nofun⟩

theorem exists_failureOf_of_code_ne_ok {i : Instr} {s : State} (h : (responseTo i s).code ≠ 0x00#8) :
    ∃ e, failureOf i s = some e := by
  refine Option.ne_none_iff_exists'.mp fun hnone => h ?_
  rw [responseTo_of_none hnone, okCode]

/-- Settles O47: the code of a response is that of the operation's failure, and only FRM.CMD and FRM.HALF fail. -/
theorem errorCodesAndTheirCauses : Obligations.ErrorCodesAndTheirCauses := by
  intro i s t r hx hr
  obtain rfl := eq_responseTo hx hr
  refine ⟨?codes, ?tooLarge, ?notHalfPage⟩
  case codes =>
    by_cases hok : (responseTo i s).code = 0x00#8
    · exact .inl hok
    · obtain ⟨e, he⟩ := exists_failureOf_of_code_ne_ok hok
      have hcode := (responseTo_code_eq_errorCode_iff i s e).mpr he
      rcases failureOf_eq_some_iff.mp he with ⟨-, rfl, -⟩ | ⟨-, rfl, -⟩
      · exact .inr (.inl hcode)
      · exact .inr (.inr hcode)
  case tooLarge =>
    refine (responseTo_code_eq_errorCode_iff i s .payloadTooLarge).trans ?_
    simp [failureOf_eq_some_iff]
  case notHalfPage =>
    refine (responseTo_code_eq_errorCode_iff i s .invalidHalfPageSize).trans ?_
    simp [failureOf_eq_some_iff]

/-- Settles O48: an operation and an illegal word each end in one response, a reset in none, and neither touches the
rest of the port. -/
theorem everyEventOfTheOneHostCompletes : Obligations.EveryEventOfTheOneHostCompletes := by
  intro s rest
  refine ⟨fun w hp => ?word, fun hp => ⟨_, step_of_reset hp, rfl, rfl⟩⟩
  case word =>
    cases hd : decode w with
    | ok i =>
      exact ⟨_, _, (step_of_decode_ok hp hd).trans (exec_eq_after i _), after_port i _, after_responses i _⟩
    | error e => exact ⟨_, _, step_of_decode_error hp hd, rfl, raise_responses _ _⟩

/-! ## A failure repeats -/

/-- An error changes nothing that the checks read (R138). -/
theorem failureOf_raise (e : ErrorKind) (i : Instr) (s : State) : failureOf i (raise e s) = failureOf i s := by
  cases e <;> cases i <;> rfl

/-- Raising an error again only responds again: its flag is set already (R15, R133). -/
theorem raise_raise (e : ErrorKind) (s : State) :
    raise e (raise e s) = { raise e s with responses := (raise e s).responses ++ [⟨errorCode e, 0#32⟩] } := by
  cases e <;> rfl

/-- Settles O53: after an error the same check fails again; after FRM.CLR no byte is in the buffer, so that FRM.CMD
succeeds. -/
theorem repeatingAFailedSendFailsAgain : Obligations.RepeatingAFailedSendFailsAgain := by
  intro i s t r hx hr hcode
  obtain rfl := eq_responseTo hx hr
  obtain ⟨e, he⟩ := exists_failureOf_of_code_ne_ok hcode
  obtain rfl := eq_after_of_next hx
  refine ⟨?again, ?cleared⟩
  case again =>
    rw [exec_eq_after, after_of_some he, after_of_some ((failureOf_raise e i s).trans he), raise_raise,
      responseTo_of_some he]
  case cleared =>
    obtain ⟨u, hu, hsent, -⟩ := operationSequenceSendsTheCommand [] (after i s) (List.forall_mem_nil _)
    obtain ⟨hlast, -⟩ := hsent (Nat.zero_le 60)
    exact ⟨u, hu, hlast⟩

/-! ## What each operation writes -/

/-- `TX` stays, or a send that succeeded appended one frame of 64 bytes to it (R18, R33, R107). -/
theorem after_tx (i : Instr) (s : State) : (after i s).tx = s.tx ∨
    ((i = .frmCmd ∨ i = .frmHalf) ∧ failureOf i s = none ∧ ∃ f, f.length = 64 ∧ (after i s).tx = s.tx ++ [f]) := by
  cases h : failureOf i s with
  | some e => exact .inl (after_of_some h ▸ raise_tx e s)
  | none =>
    rw [after_of_none h, respond_tx]
    cases i with
    | frmPush b => exact .inl (pushPay_tx b s)
    | frmCmd =>
      obtain ⟨-, hfits⟩ := failureOf_frmCmd_eq_none_iff.mp h
      exact .inr ⟨.inl rfl, rfl, _, commandFrame_length s.opc hfits, rfl⟩
    | frmHalf =>
      obtain ⟨-, hhalf⟩ := failureOf_frmHalf_eq_none_iff.mp h
      exact .inr ⟨.inr rfl, rfl, _, hhalf, rfl⟩
    | nop | rst | stat | crcInit | crcSeed | crcByte | crcRead | frmClr | frmOpc => exact .inl rfl

theorem responseTo_send_of_none {i : Instr} {s : State} (hi : i = .frmCmd ∨ i = .frmHalf)
    (h : failureOf i s = none) : responseTo i s = ⟨0x00#8, 0#32⟩ := by
  rw [responseTo_of_none h]
  rcases hi with rfl | rfl <;> rfl

/-- Settles O51: an operation does to `TX` what `after_tx` says, and an illegal word and a reset do nothing to it. -/
theorem txGrowsByWholeFramesOnly : Obligations.TxGrowsByWholeFramesOnly := by
  intro s t h
  rcases step_next_cases h with ⟨-, rfl⟩ | ⟨w, rest, i, hp, hd, hx⟩ | ⟨w, rest, -, -, rfl⟩ | ⟨rest, -, rfl⟩
  · exact .inl rfl
  · obtain rfl := eq_after_of_next hx
    rcases after_tx i { s with port := rest } with hsame | ⟨hi, hok, f, hlen, htx⟩
    · exact .inl hsame
    · refine .inr ⟨f, w, rest, htx, hlen, hp, ?_, ?_⟩
      · rcases hi with rfl | rfl
        · exact .inl hd
        · exact .inr hd
      · rw [after_responses, responseTo_send_of_none hi hok]
  · exact .inl (raise_tx _ _)
  · exact .inl rfl

/-- Settles O42: an error writes only the flag of FRM.CMD or FRM.HALF, and the effect of an operation only the registers
it is listed for. -/
theorem everyRegisterHasOnlyItsWriters : Obligations.EveryRegisterHasOnlyItsWriters := by
  intro i s t hx
  rw [eq_after_of_next hx]
  cases h : failureOf i s with
  | some e =>
    rw [after_of_some h]
    rcases failureOf_eq_some_iff.mp h with ⟨rfl, rfl, -⟩ | ⟨rfl, rfl, -⟩
    · exact ⟨.inl rfl, .inl rfl, .inl rfl, .inl rfl, .inr (.inl rfl), .inl rfl, .inl rfl, .inl rfl, rfl⟩
    · exact ⟨.inl rfl, .inl rfl, .inl rfl, .inl rfl, .inl rfl, .inr (.inl rfl), .inl rfl, .inl rfl, rfl⟩
  | none =>
    rw [after_of_none h]
    cases i with
    -- `CRC` or nothing; the frame unit's registers but `TX`; the sends; every register but `TX`
    | nop | stat | crcInit | crcSeed | crcByte | crcRead => simp [effectOf]
    | frmClr | frmOpc | frmPush => simp [effectOf]
    | frmCmd | frmHalf => simp [effectOf]
    | rst => simp [effectOf]

end Sys2Proof.Machine

/-! What the operations of one unit leave alone, and that the two units do not influence each other (R1). -/

namespace Sys2Proof.Machine

/-! ## The frame of each operation -/

theorem respond_respond (c : Byte) (d : Word32) (s : State) :
    respond c d (respond c d s) = { s with responses := s.responses ++ [⟨c, d⟩, ⟨c, d⟩] } := by
  simp [respond]

/-- Settles O43: the response reads only what the operation leaves as it is. -/
theorem frameOfReadOnlyOperations : Obligations.FrameOfReadOnlyOperations := by
  intro i s t hi hx
  simp only [List.mem_cons, List.not_mem_nil, or_false] at hi
  rcases hi with rfl | rfl | rfl <;> cases hx <;>
    exact ⟨_, rfl, congrArg Host.Outcome.next (respond_respond okCode _ s)⟩

/-- Settles O44: each is `writeCrc` and an OK response. -/
theorem frameOfCrcWriters : Obligations.FrameOfCrcWriters := by
  intro i s t hi hx
  rcases hi with rfl | ⟨v, rfl⟩ | ⟨b, rfl⟩ <;> cases hx <;> exact ⟨rfl, _, rfl⟩

/-- Settles O45: the two sides of each check; a push and a send append. -/
theorem frameOfFrameOperationsAndRst : Obligations.FrameOfFrameOperationsAndRst := by
  intro s t
  refine ⟨fun hx => ?clr, fun v hx => ?opc, fun b hx => ?push, fun hx => ?cmd, fun hx => ?half, fun hx => ?rst⟩
  case clr => cases hx; rfl
  case opc => cases hx; rfl
  case push =>
    cases hx
    rcases Nat.lt_or_ge s.pay.length 64 with hlt | hge
    · rw [pushPay_of_lt b s hlt]
      exact ⟨rfl, fun _ => List.getElem?_append_left, fun _ => rfl⟩
    · rw [pushPay_of_ge b s hge]
      exact ⟨rfl, fun _ _ => rfl, fun hlt => absurd hge (Nat.not_le.mpr hlt)⟩
  case cmd =>
    by_cases hc : s.povf = true ∨ 60 < s.pay.length
    · cases (execFrmCmd_of_fail hc).symm.trans hx
      exact ⟨rfl, fun _ _ => rfl⟩
    · cases (execFrmCmd_of_ok hc).symm.trans hx
      exact ⟨rfl, fun _ => List.getElem?_append_left⟩
  case half =>
    by_cases hc : s.povf = true ∨ s.pay.length ≠ 64
    · cases (execFrmHalf_of_fail hc).symm.trans hx
      exact ⟨rfl, fun _ _ => rfl⟩
    · cases (execFrmHalf_of_ok hc).symm.trans hx
      exact ⟨rfl, fun _ => List.getElem?_append_left⟩
  case rst => cases hx; exact ⟨rfl, rfl⟩

/-! ## The two units -/

/-- `CRC` after an operation is a function of `CRC` before it (R1). -/
theorem after_crc_congr (i : Instr) {s₁ s₂ : State} (h : s₁.crc = s₂.crc) : (after i s₁).crc = (after i s₂).crc := by
  by_cases hi : keepsChecksumGoing i = true
  · obtain ⟨t₁, hx₁, hcrc₁⟩ := exec_next_crc hi s₁
    obtain ⟨t₂, hx₂, hcrc₂⟩ := exec_next_crc hi s₂
    rw [← eq_after_of_next hx₁, ← eq_after_of_next hx₂, hcrc₁, hcrc₂, h]
  · cases i with
    | rst | crcInit | crcSeed => rfl
    | nop | stat | crcByte | crcRead | frmClr | frmOpc | frmPush | frmCmd | frmHalf => exact absurd rfl hi

theorem frameView_eq_iff (s₁ s₂ : State) : frameView s₁ = frameView s₂ ↔
    s₁.opc = s₂.opc ∧ s₁.pay = s₂.pay ∧ s₁.povf = s₂.povf ∧ s₁.ptl = s₂.ptl ∧ s₁.ihs = s₂.ihs ∧ s₁.tx = s₂.tx := by
  simp [frameView]

/-- The checks read the frame unit only (R134, R135). -/
theorem failureOf_congr (i : Instr) {s₁ s₂ : State} (h : frameView s₁ = frameView s₂) :
    failureOf i s₁ = failureOf i s₂ := by
  obtain ⟨-, hpay, hpovf, -⟩ := (frameView_eq_iff s₁ s₂).mp h
  cases i with
  | frmCmd | frmHalf => rw [failureOf, failureOf, hpay, hpovf]
  | nop | rst | stat | crcInit | crcSeed | crcByte | crcRead | frmClr | frmOpc | frmPush => rfl

theorem frameView_raise_congr (e : ErrorKind) {s₁ s₂ : State} (h : frameView s₁ = frameView s₂) :
    frameView (raise e s₁) = frameView (raise e s₂) := by
  obtain ⟨hopc, hpay, hpovf, hptl, hihs, htx⟩ := (frameView_eq_iff s₁ s₂).mp h
  refine (frameView_eq_iff _ _).mpr ?_
  cases e with
  | payloadTooLarge => exact ⟨hopc, hpay, hpovf, rfl, hihs, htx⟩
  | invalidHalfPageSize => exact ⟨hopc, hpay, hpovf, hptl, rfl, htx⟩
  | illegalOperation => exact ⟨hopc, hpay, hpovf, hptl, hihs, htx⟩

theorem frameView_pushPay_congr (b : Byte) {s₁ s₂ : State} (h : frameView s₁ = frameView s₂) :
    frameView (pushPay b s₁) = frameView (pushPay b s₂) := by
  obtain ⟨hopc, hpay, hpovf, hptl, hihs, htx⟩ := (frameView_eq_iff s₁ s₂).mp h
  refine (frameView_eq_iff _ _).mpr ?_
  rcases Nat.lt_or_ge s₁.pay.length 64 with hlt | hge
  · rw [pushPay_of_lt b s₁ hlt, pushPay_of_lt b s₂ (hpay ▸ hlt)]
    exact ⟨hopc, congrArg (· ++ [b]) hpay, hpovf, hptl, hihs, htx⟩
  · rw [pushPay_of_ge b s₁ hge, pushPay_of_ge b s₂ (hpay ▸ hge)]
    exact ⟨hopc, hpay, rfl, hptl, hihs, htx⟩

theorem frameView_effectOf_congr (i : Instr) {s₁ s₂ : State} (h : frameView s₁ = frameView s₂) :
    frameView (effectOf i s₁) = frameView (effectOf i s₂) := by
  obtain ⟨hopc, hpay, hpovf, hptl, hihs, htx⟩ := (frameView_eq_iff s₁ s₂).mp h
  cases i with
  | nop | stat | crcInit | crcSeed | crcByte | crcRead => exact h
  | frmPush b => exact frameView_pushPay_congr b h
  | rst | frmClr | frmOpc | frmCmd | frmHalf =>
    simp [frameView, effectOf, hopc, hpay, hpovf, hptl, hihs, htx]

/-- The frame unit after an operation is a function of the frame unit before it (R1). -/
theorem frameView_after_congr (i : Instr) {s₁ s₂ : State} (h : frameView s₁ = frameView s₂) :
    frameView (after i s₁) = frameView (after i s₂) := by
  have hfail : failureOf i s₂ = failureOf i s₁ := failureOf_congr i h.symm
  cases hf : failureOf i s₁ with
  | some e =>
    rw [after_of_some hf, after_of_some (hfail.trans hf)]
    exact frameView_raise_congr e h
  | none =>
    rw [after_of_none hf, after_of_none (hfail.trans hf)]
    exact frameView_effectOf_congr i h

/-- Settles O52: each unit's part of the next state, and the response of its own operations, are functions of that
unit's part of the state. -/
theorem theTwoUnitsAreIndependent : Obligations.TheTwoUnitsAreIndependent := by
  intro i s₁ s₂ t₁ t₂ hx₁ hx₂
  obtain rfl := eq_after_of_next hx₁
  obtain rfl := eq_after_of_next hx₂
  refine ⟨after_crc_congr i, frameView_after_congr i, fun hcrc hresp hi => ?crc, fun hview hresp hi => ?frame⟩
  case crc =>
    have hsame : responseTo i s₁ = responseTo i s₂ := by
      simp only [List.mem_cons, List.not_mem_nil, or_false] at hi
      rcases hi with (rfl | rfl) | ⟨v, rfl⟩ | ⟨b, rfl⟩
      · rfl
      · exact congrArg (Response.mk okCode) hcrc
      · rfl
      · rfl
    rw [after_responses, after_responses, hresp, hsame]
  case frame =>
    have hdata : successData s₁ i = successData s₂ i := by
      simp only [List.mem_cons, List.not_mem_nil, or_false] at hi
      rcases hi with (rfl | rfl | rfl) | ⟨v, rfl⟩ | ⟨b, rfl⟩ <;> rfl
    rw [after_responses, after_responses, hresp, responseTo, responseTo, failureOf_congr i hview, hdata]

/-! ## The status word -/

/-- Settles O17: `STATUS` is a concatenation, and 64 is less than 2 to the 7. -/
theorem statusWordLayout : Obligations.StatusWordLayout := by
  rintro s ⟨hlen, -⟩
  refine ⟨?plen, ?povf, ?ptl, ?ihs, ?ill, ?high⟩
  case plen =>
    rw [status_extractLsb'_plen, BitVec.toNat_ofNat]
    exact Nat.mod_eq_of_lt (by omega)
  case high =>
    intro k hk
    simp only [status, BitVec.getLsbD_append, show ¬ k < 7 by omega, show ¬ k - 7 < 1 by omega,
      show ¬ k - 7 - 1 < 1 by omega, show ¬ k - 7 - 1 - 1 < 1 by omega, show ¬ k - 7 - 1 - 1 - 1 < 1 by omega,
      if_false, BitVec.getLsbD_zero]
  case povf | ptl | ihs | ill =>
    simp only [status, BitVec.getLsbD_append]
    simp

end Sys2Proof.Machine

/-! The laws of the CRC function (R90), the payload buffer (R12, R107, R159), and what stands beside the block:
pseudo-operations (R66), assembler lines (R64) and the transposition (R3). -/

namespace Sys2Proof.Machine

/-! ## The laws of the checksum -/

theorem crcUpd_allOnes_zero : crcUpd 0xFFFFFFFF#32 0x00#8 = 0xFFFFFFFF#32 := by decide

/-- Settles O22: by induction on the number of bytes, each of which leaves the value. -/
theorem zeroBytesFixTheAllOnesValue : Obligations.ZeroBytesFixTheAllOnesValue := by
  refine ⟨fun n => ?_, crcUpd_allOnes_zero, by decide⟩
  induction n with
  | zero => rfl
  | succ n ih => rw [List.replicate_succ, crcRun_cons, crcUpd_allOnes_zero, ih]

/-- One step loses nothing: bit 31 tells whether the polynomial was xored in (R90). -/
theorem eq_zero_of_rawStep_eq_zero {t : Word32} (h : rawStep t = 0#32) : t = 0#32 := by
  cases hlow : t.getLsbD 0 with
  | true =>
    rw [rawStep, hlow, if_pos rfl] at h
    have hbit := congrArg (BitVec.getLsbD · 31) h
    simp [Config.crcPoly] at hbit
  | false =>
    rw [rawStep_of_getLsbD_zero hlow] at h
    refine BitVec.eq_of_getLsbD_eq fun i hi => ?_
    cases i with
    | zero => simpa using hlow
    | succ i =>
      have hbit := congrArg (BitVec.getLsbD · i) h
      simpa [BitVec.getLsbD_ushiftRight, Nat.add_comm] using hbit

theorem eq_zero_of_rawSteps_eq_zero (n : Nat) {t : Word32} (h : rawSteps n t = 0#32) : t = 0#32 := by
  induction n generalizing t with
  | zero => exact h
  | succ n ih => exact eq_zero_of_rawStep_eq_zero (ih h)

theorem crcUpd_injective (b : Byte) : Function.Injective (fun c => crcUpd c b) := by
  intro c d h
  have hdiff : rawSteps 8 (c ^^^ d) = 0#32 := by
    rw [← crcUpd_xor_crcUpd c d b]
    exact BitVec.xor_eq_zero_iff.mpr h
  exact BitVec.xor_eq_zero_iff.mp (eq_zero_of_rawSteps_eq_zero 8 hdiff)

/-- Settles O23: a one to one function on the 32-bit values is onto. -/
theorem byteUpdateIsABijection : Obligations.ByteUpdateIsABijection :=
  fun b => Finite.injective_iff_bijective.mp (crcUpd_injective b)

/-- The raw update is linear over xor, in the register and the byte together (R90). -/
theorem rawUpd_xor (x y : Word32) (a b : Byte) : rawUpd (x ^^^ y) (a ^^^ b) = rawUpd x a ^^^ rawUpd y b := by
  rw [rawUpd, rawUpd, rawUpd, ← rawSteps_xor, BitVec.setWidth_xor]
  congr 1
  ac_rfl

/-- The xor of two messages, byte by byte. -/
def xorBytes (m₁ m₂ : List Byte) : List Byte := List.zipWith (fun x y => x ^^^ y) m₁ m₂

theorem xorBytes_self (m : List Byte) : xorBytes m m = zeros m.length := by
  rw [xorBytes, List.zipWith_self, zeros]
  simp

theorem xorBytes_zeros (m : List Byte) : xorBytes m (zeros m.length) = m := by
  induction m with
  | nil => rfl
  | cons b m ih => exact congrArg₂ List.cons BitVec.xor_zero ih

theorem rawRun_xor {m₁ m₂ : List Byte} (h : m₁.length = m₂.length) (x y : Word32) :
    rawRun (x ^^^ y) (xorBytes m₁ m₂) = rawRun x m₁ ^^^ rawRun y m₂ := by
  induction m₁ generalizing m₂ x y with
  | nil =>
    obtain rfl := List.eq_nil_of_length_eq_zero h.symm
    rfl
  | cons a m₁ ih =>
    obtain ⟨b, m₂, rfl⟩ := List.exists_cons_of_length_eq_add_one h.symm
    rw [rawRun_cons, rawRun_cons, ← ih (Nat.succ.inj h), ← rawUpd_xor]
    rfl

theorem not_xor_not (x y : Word32) : ~~~ x ^^^ ~~~ y = x ^^^ y := by
  rw [← BitVec.not_xor_left, ← BitVec.not_xor_right, BitVec.not_not]

/-- The difference of two checksums is the raw run of the difference of the seeds over that of the messages: the
complements cancel (R80, R90). -/
theorem crcRun_xor_crcRun {m₁ m₂ : List Byte} (h : m₁.length = m₂.length) (c d : Word32) :
    crcRun c m₁ ^^^ crcRun d m₂ = rawRun (c ^^^ d) (xorBytes m₁ m₂) := by
  rw [crcRun_eq_not_rawRun, crcRun_eq_not_rawRun, not_xor_not, ← rawRun_xor h, not_xor_not]

/-- Settles O24: both sides are the raw run of `d` over zero bytes. -/
theorem seedDifferenceLaw : Obligations.SeedDifferenceLaw := by
  intro c d m
  calc crcRun (c ^^^ d) m ^^^ crcRun c m
      = rawRun d (zeros m.length) := by
        rw [crcRun_xor_crcRun rfl, xor_xor_cancel_comm, xorBytes_self]
    _ = crcRun d (zeros m.length) ^^^ crcRun 0#32 (zeros m.length) := by
        rw [crcRun_xor_crcRun rfl, BitVec.xor_zero, xorBytes_self, zeros_length]

/-- Settles O25: the xor of the messages differs from zero bytes as the one message does from the other, so the
checksums do too. -/
theorem messageDifferenceLaw : Obligations.MessageDifferenceLaw := by
  intro c m₁ m₂ hlen
  have hxor : (xorBytes m₁ m₂).length = m₁.length := by simp [xorBytes, hlen]
  have hdiff : crcRun c (xorBytes m₁ m₂) ^^^ crcRun c (zeros m₁.length) = crcRun c m₁ ^^^ crcRun c m₂ := by
    rw [crcRun_xor_crcRun (hxor.trans (zeros_length _).symm), crcRun_xor_crcRun hlen, ← hxor, xorBytes_zeros]
  exact (xor_eq_iff_left_eq _ _ _).mp hdiff

/-! ## The payload -/

/-- Settles O37: the zero bytes appended are those the padding has fewer. -/
theorem trailingZerosGiveTheSameFrame : Obligations.TrailingZerosGiveTheSameFrame := by
  intro o p n h
  have hpad : List.replicate n 0x00#8 ++ zeros (60 - (p.length + n)) = zeros (60 - p.length) := by
    rw [zeros, zeros, List.replicate_append_replicate]
    congr 1
    omega
  rw [commandFrame, commandFrame, List.length_append, List.length_replicate, payloadMax_eq, List.append_assoc,
    List.append_assoc p, hpad, List.append_assoc]

/-- Settles O38: the buffer's part of being ready to send. -/
theorem bufferHoldsTheFirst64PushedBytes : Obligations.BufferHoldsTheFirst64PushedBytes := by
  intro is s his
  obtain ⟨t, ht, -, -, hpay, hpovf⟩ := execAll_frmClr_readyToSend his s
  exact ⟨t, ht, hpay, hpovf⟩

/-! ## Pseudo-operations -/

@[simp] theorem fedBytes_map_crcByte (m : List Byte) : fedBytes (m.map .crcByte) = m := by
  induction m with
  | nil => rfl
  | cons b m ih => exact congrArg (b :: ·) ih

@[simp] theorem pushedBytes_map_frmPush (p : List Byte) : pushedBytes (p.map .frmPush) = p := by
  induction p with
  | nil => rfl
  | cons b p ih => exact congrArg (b :: ·) ih

@[simp] theorem lastOpcode_map_frmPush (o : Word32) (p : List Byte) : lastOpcode o (p.map .frmPush) = o := by
  induction p with
  | nil => rfl
  | cons b p ih => exact ih

/-- What every operation of a list keeps, the list keeps (R36). -/
theorem execAll_keeps {α : Type} {f : State → α} {is : List Instr} (his : ∀ i ∈ is, ∀ s, f (after i s) = f s)
    {s t : State} (h : execAll is s = .next t) : f t = f s := by
  induction is generalizing s with
  | nil =>
    cases h
    rfl
  | cons i is ih =>
    obtain ⟨hi, his⟩ := List.forall_mem_cons.mp his
    rw [execAll_cons] at h
    exact (ih his h).trans (hi s)

theorem after_tx_of_not_send {i : Instr} (hcmd : i ≠ .frmCmd) (hhalf : i ≠ .frmHalf) (s : State) :
    (after i s).tx = s.tx :=
  (after_tx i s).resolve_right fun ⟨hi, _⟩ => hi.elim hcmd hhalf

theorem after_crc_of_not_fed {i : Instr} (hi : keepsChecksumGoing i = true) (hfed : fedBytes [i] = []) (s : State) :
    (after i s).crc = s.crc := by
  obtain ⟨t, hx, hcrc⟩ := exec_next_crc hi s
  rw [← eq_after_of_next hx, hcrc, hfed, crcRun_nil]

/-- A seed, the bytes and a read: the checksum, and no frame (R66). -/
theorem execAll_checksum {i : Instr} {s u : State} {seed : Word32} (m : List Byte) (hstart : exec i s = .next u)
    (hseed : u.crc = seed) (hcmd : i ≠ .frmCmd) (hhalf : i ≠ .frmHalf) :
    ∃ t, execAll ([i] ++ m.map .crcByte ++ [.crcRead]) s = .next t ∧
      t.responses.getLast? = some ⟨0x00#8, crc32 m seed⟩ ∧ t.tx = s.tx := by
  obtain ⟨t, ht, hlast⟩ := execAll_start_crcRead_response (is := m.map .crcByte) hstart hseed
    (by simp [keepsChecksumGoing])
  rw [fedBytes_map_crcByte] at hlast
  refine ⟨t, ht, hlast, execAll_keeps (f := State.tx) (fun j hj => ?_) ht⟩
  simp only [List.mem_append, List.mem_cons, List.mem_map, List.not_mem_nil, or_false] at hj
  obtain (rfl | ⟨b, -, rfl⟩) | rfl := hj
  · exact after_tx_of_not_send hcmd hhalf
  · exact after_tx_of_not_send nofun nofun
  · exact after_tx_of_not_send nofun nofun

/-- SEND of a payload that fits appends its command frame and leaves `CRC` (R66). -/
theorem execAll_expandSend (o : Word32) {p : List Byte} (hp : p.length ≤ 60) (s : State) :
    ∃ t, execAll (expandSend o p) s = .next t ∧ t.responses.getLast? = some ⟨0x00#8, 0#32⟩ ∧ t.crc = s.crc ∧
      t.tx = s.tx ++ [le32 o ++ p ++ zeros (60 - p.length)] := by
  have hpushed : pushedBytes (.frmOpc o :: p.map .frmPush) = p := pushedBytes_map_frmPush p
  have hopc : lastOpcode s.opc (.frmOpc o :: p.map .frmPush) = o := lastOpcode_map_frmPush o p
  obtain ⟨t, ht, hsent, -⟩ := operationSequenceSendsTheCommand (.frmOpc o :: p.map .frmPush) s
    (by simp [keepsPayloadGrowing])
  rw [hpushed, hopc] at hsent
  obtain ⟨hlast, htx⟩ := hsent hp
  refine ⟨t, ht, hlast, execAll_keeps (f := State.crc) (fun i hi => ?_) ht, htx⟩
  simp only [List.mem_append, List.mem_cons, List.mem_map, List.not_mem_nil, or_false] at hi
  obtain (rfl | rfl | ⟨b, -, rfl⟩) | rfl := hi <;> exact after_crc_of_not_fed rfl rfl

/-- SENDHALF of 64 bytes appends them and leaves `CRC` (R66). -/
theorem execAll_sendHalf (tab : Config.CmdTab) {d : List Byte} (hd : d.length = 64) (s : State) :
    ∃ t, execAll (expand tab (.sendHalf d)) s = .next t ∧ t.responses.getLast? = some ⟨0x00#8, 0#32⟩ ∧
      t.crc = s.crc ∧ t.tx = s.tx ++ [d] := by
  obtain ⟨t, ht, hsent, -⟩ := operationSequenceSendsTheHalfPage (d.map .frmPush) s (by simp [keepsPayloadGrowing])
  rw [pushedBytes_map_frmPush] at hsent
  obtain ⟨hlast, htx⟩ := hsent hd
  refine ⟨t, ht, hlast, execAll_keeps (f := State.crc) (fun i hi => ?_) ht, htx⟩
  simp only [List.mem_append, List.mem_cons, List.mem_map, List.not_mem_nil, or_false] at hi
  obtain (rfl | ⟨b, -, rfl⟩) | rfl := hi <;> exact after_crc_of_not_fed rfl rfl

/-- Settles O54: each expansion is a checksum sequence or a sequence that sends; the three fields of ProgramPage take 12
of the 60 bytes. -/
theorem pseudoOperationsRealiseTheFunctions : Obligations.PseudoOperationsRealiseTheFunctions := by
  intro tab s
  refine ⟨fun m => ?crc32, fun seed m => ?crc32s, fun o p hp => execAll_expandSend o hp s,
    fun d hd => execAll_sendHalf tab hd s, fun n lo hi => ?progPage⟩
  case crc32 => exact execAll_checksum (i := .crcInit) m rfl rfl nofun nofun
  case crc32s => exact execAll_checksum (i := .crcSeed seed) m rfl rfl nofun nofun
  case progPage =>
    have hfits : (progPagePayload n lo hi).length ≤ 60 := show 12 ≤ 60 by decide
    obtain ⟨t, ht, -, -, htx⟩ := execAll_expandSend tab.programPage hfits s
    exact ⟨t, ht, htx⟩

/-- Settles O41: each half of the page is 64 bytes, and the second is sent from where the first ends. -/
theorem twoHalfPagesCarryThePage : Obligations.TwoHalfPagesCarryThePage := by
  intro tab page s hpage
  have hfirst : (page.take 64).length = 64 := by rw [List.length_take, hpage]; rfl
  have hsecond : (page.drop 64).length = 64 := by rw [List.length_drop, hpage]
  obtain ⟨u, hu, -, -, hutx⟩ := execAll_sendHalf tab hfirst s
  obtain ⟨t, ht, -, -, httx⟩ := execAll_sendHalf tab hsecond u
  refine ⟨t, page.take 64, page.drop 64, (execAll_append hu).trans ht, ?_, hfirst, hsecond,
    List.take_append_drop 64 page⟩
  rw [httx, hutx, List.append_assoc]
  rfl

/-! ## Assembler lines -/

theorem assemble_of_wf {l : SourceLine} (h : l.wf = true) :
    assemble l = some (packWord (opCode l.mnemonic) 0#24 (BitVec.ofNat 32 (l.operand.getD 0))) := if_pos h

theorem assemble_toSource (i : Instr) : assemble i.toSource = some (encode i) := by
  rw [assemble_of_wf i.wf_eq_true]
  cases i with
  | crcSeed v | frmOpc v => exact congrArg (some <| packWord _ _ ·) (BitVec.ofNat_toNat ..)
  | crcByte b | frmPush b => exact congrArg (some <| packWord _ _ ·) (BitVec.ofNat_toNat ..)
  | nop | rst | stat | crcInit | crcRead | frmClr | frmCmd | frmHalf => rfl

theorem immByte_ofNat_toNat {n : Nat} (h : n < 256) : (immByte (BitVec.ofNat 32 n)).toNat = n := by
  rw [immByte, BitVec.extractLsb'_toNat, BitVec.toNat_ofNat, Nat.shiftRight_zero]
  omega

/-- A well-formed line is the line of the operation it spells (R64). -/
theorem toSource_instrOf_of_wf {l : SourceLine} (h : l.wf = true) :
    (instrOf l.mnemonic (BitVec.ofNat 32 (l.operand.getD 0))).toSource = l := by
  obtain ⟨m, o⟩ := l
  cases m with
  | nop | rst | stat | crcInit | crcRead | frmClr | frmCmd | frmHalf =>
    cases o with
    | none => rfl
    | some n => cases h
  | crcSeed | frmOpc =>
    cases o with
    | none => cases h
    | some n => exact congrArg (SourceLine.mk _ <| some ·) (Nat.mod_eq_of_lt (of_decide_eq_true h))
  | crcByte | frmPush =>
    cases o with
    | none => cases h
    | some n => exact congrArg (SourceLine.mk _ <| some ·) (immByte_ofNat_toNat (of_decide_eq_true h))

/-- Settles O55: a well-formed line is the line of an operation, and that line assembles to the operation's word. -/
theorem assemblerLinesEncodeTheirOperation : Obligations.AssemblerLinesEncodeTheirOperation := by
  refine ⟨fun l hl => ?_, fun l hl => if_neg (by simp [hl]), assemble_toSource⟩
  have hline := toSource_instrOf_of_wf hl
  exact ⟨_, _, (congrArg assemble hline).symm.trans (assemble_toSource _), decodeOfEncodeIsTheOperation _, hline⟩

/-! ## The transposition -/

/-- `out` is `s` with each group of four bytes reversed, and reversing again gives `s` (R3). -/
def ReversesGroups (s out : List Byte) : Prop :=
  out.length = s.length ∧ (∀ k j, j < 4 → 4 * k + 3 < s.length → out[4 * k + j]? = s[4 * k + 3 - j]?) ∧
    xposeGroups out = some s

theorem xposeGroups_cons {rest out : List Byte} (h : xposeGroups rest = some out) (b₀ b₁ b₂ b₃ : Byte) :
    xposeGroups (b₀ :: b₁ :: b₂ :: b₃ :: rest) = some (b₃ :: b₂ :: b₁ :: b₀ :: out) := by
  rw [xposeGroups, h]

theorem ReversesGroups.cons {rest out : List Byte} (h : ReversesGroups rest out) (b₀ b₁ b₂ b₃ : Byte) :
    ReversesGroups (b₀ :: b₁ :: b₂ :: b₃ :: rest) (b₃ :: b₂ :: b₁ :: b₀ :: out) := by
  obtain ⟨hlen, hbytes, hback⟩ := h
  refine ⟨by simp [hlen], fun k j hj hk => ?_, xposeGroups_cons hback b₃ b₂ b₁ b₀⟩
  cases k with
  | zero => interval_cases j <;> rfl
  | succ k =>
    have hrest := hbytes k j hj (by simp only [List.length_cons] at hk; omega)
    rw [show 4 * (k + 1) + j = 4 * k + j + 4 by omega, show 4 * (k + 1) + 3 - j = 4 * k + 3 - j + 4 by omega]
    simpa using hrest

theorem exists_xposeGroups_of_mod_eq_zero : ∀ s : List Byte, s.length % 4 = 0 →
    ∃ out, xposeGroups s = some out ∧ ReversesGroups s out
  | [], _ => ⟨[], rfl, rfl, nofun, rfl⟩
  | b₀ :: b₁ :: b₂ :: b₃ :: rest, h => by
    obtain ⟨out, hout, hrev⟩ := exists_xposeGroups_of_mod_eq_zero rest (by simp only [List.length_cons] at h; omega)
    exact ⟨_, xposeGroups_cons hout b₀ b₁ b₂ b₃, hrev.cons b₀ b₁ b₂ b₃⟩

theorem xposeGroups_of_mod_ne_zero : ∀ s : List Byte, s.length % 4 ≠ 0 → xposeGroups s = none
  | [], h => absurd rfl h
  | [_], _ => rfl
  | [_, _], _ => rfl
  | [_, _, _], _ => rfl
  | b₀ :: b₁ :: b₂ :: b₃ :: rest, h => by
    rw [xposeGroups, xposeGroups_of_mod_ne_zero rest (by simp only [List.length_cons] at h; omega)]

theorem xpose4_of_length_pos {s : List Byte} (h : 0 < s.length) : xpose4 s = xposeGroups s := by
  obtain ⟨b, rest, rfl⟩ := List.exists_cons_of_length_pos h
  rfl

/-- Settles O56: by induction on the groups; a sequence that is not empty is transposed group by group. -/
theorem xpose4ReversesEachGroupOfFour : Obligations.Xpose4ReversesEachGroupOfFour := by
  refine ⟨fun s hpos hmod => ?groups, fun s hs => ?refused⟩
  case groups =>
    obtain ⟨out, hout, hlen, hbytes, hback⟩ := exists_xposeGroups_of_mod_eq_zero s hmod
    exact ⟨out, (xpose4_of_length_pos hpos).trans hout, hlen, hbytes, (xpose4_of_length_pos (hlen ▸ hpos)).trans hback⟩
  case refused =>
    rcases Nat.eq_zero_or_pos s.length with hzero | hpos
    · obtain rfl := List.eq_nil_of_length_eq_zero hzero
      rfl
    · rw [xpose4_of_length_pos hpos]
      exact xposeGroups_of_mod_ne_zero s (hs.resolve_left hpos.ne')

end Sys2Proof.Machine
